-- ==== Sys2Proof/Word.lean ====
section
/-! DEFINITION. The word types of MBCORE: bytes, Modbus registers and block registers (00_scope.md R7, R8, R11). -/

namespace Sys2Proof

/-- A byte of an operand, result or frame sequence (R11). -/
abbrev Byte := BitVec 8

/-- A 16-bit unit: a Modbus register, a checksum, the CRC accumulator (R11, R29). -/
abbrev Half := BitVec 16

/-- A 32-bit block register, command word or host data word (R7, R54, R70). -/
abbrev Word := BitVec 32

end Sys2Proof
end

