-- ==== Sys2Proof/Syntax.lean ====
section
/-! DEFINITION. The eight commands of MBCORE with their fields (30_encoding.md R70 to R79): one constructor per row of
spec/opcode_table.json. -/

namespace Sys2Proof

/-- BO, the byte order of a 16-bit unit (R72). -/
inductive ByteOrder where
  /-- BO = 0: the first byte is the most significant. -/
  | big
  /-- BO = 1: the first byte is the least significant. -/
  | little
deriving DecidableEq, Repr

/-- WO, the word order of a 32-bit value in two Modbus registers (R73). -/
inductive WordOrder where
  /-- WO = 0: the first register is the high-order word. -/
  | big
  /-- WO = 1: the second register is the high-order word. -/
  | little
deriving DecidableEq, Repr

/-- SG, the signedness of a two-byte integer (R74). -/
inductive Signedness where
  /-- SG = 0: 0..65535. -/
  | unsigned
  /-- SG = 1: −32768..32767, two's complement. -/
  | signed
deriving DecidableEq, Repr

/-- A command. `dec` is `u(DEC)` (R75) and `cnt` is `u(CNT)` (R76); WellFormed bounds them by their fields' widths. -/
inductive Instr where
  /-- CRC_INIT (41_crc.md R107). -/
  | crcInit
  /-- CRC_BYTE (41_crc.md R108). -/
  | crcByte (imm8 : Byte)
  /-- ENC_BYTE (42_codec.md R121). -/
  | encByte
  /-- ENC_SHORT (42_codec.md R128). -/
  | encShort (bo : ByteOrder) (sg : Signedness) (dec : Nat)
  /-- DEC_SHORT (42_codec.md R130). -/
  | decShort (bo : ByteOrder) (sg : Signedness) (dec : Nat) (cnt : Nat)
  /-- DEC_F32 (42_codec.md R142). -/
  | decF32 (bo : ByteOrder) (wo : WordOrder) (cnt : Nat)
  /-- BUILD_RDREQ (43_frame.md R163). -/
  | buildRdreq
  /-- DEC_RDRESP (43_frame.md R166). -/
  | decRdresp (cnt : Nat)
deriving DecidableEq, Repr

end Sys2Proof
end

