-- ==== Sys2Proof/WellFormed.lean ====
section
/-! DEFINITION. The bounds a command's fields meet: DEC is 4 bits and CNT is 3 bits wide (30_encoding.md R70, R75, R76). -/

namespace Sys2Proof

/-- DEC holds 0..15: "Negative decimals cannot be encoded" and 16 is not reached (R75). -/
def decFits (dec : Nat) : Bool := dec < 16

/-- CNT holds 0..7 (R76). -/
def cntFits (cnt : Nat) : Bool := cnt < 8

/-- The command has an encoding: each count lies within its field. -/
def WellFormed : Instr → Bool
  | .crcInit => true
  | .crcByte _ => true
  | .encByte => true
  | .encShort _ _ dec => decFits dec
  | .decShort _ _ dec cnt => decFits dec && cntFits cnt
  | .decF32 _ _ cnt => cntFits cnt
  | .buildRdreq => true
  | .decRdresp cnt => cntFits cnt

end Sys2Proof
end

