-- ==== Sys2Proof/Decode.lean ====
section
/-! DEFINITION. The decoder and, after it, the encoder of command words (30_encoding.md R70 to R83). -/

namespace Sys2Proof

/-! ## Fields of a command word (R70) -/

/-- OP, `w[7:0]` (R71). -/
def fieldOP (w : Word) : BitVec 8 := w.extractLsb' 0 8
/-- BO, `w[8]` (R72). -/
def fieldBO (w : Word) : BitVec 1 := w.extractLsb' 8 1
/-- WO, `w[9]` (R73). -/
def fieldWO (w : Word) : BitVec 1 := w.extractLsb' 9 1
/-- SG, `w[10]` (R74). -/
def fieldSG (w : Word) : BitVec 1 := w.extractLsb' 10 1
/-- DEC, `w[15:12]` (R75). -/
def fieldDEC (w : Word) : BitVec 4 := w.extractLsb' 12 4
/-- CNT, `w[18:16]` (R76). -/
def fieldCNT (w : Word) : BitVec 3 := w.extractLsb' 16 3
/-- IMM8, `w[31:24]` (R77). -/
def fieldIMM8 (w : Word) : BitVec 8 := w.extractLsb' 24 8

/-- BO = 0 is big-endian, BO = 1 little-endian (R72). -/
def byteOrderOf (b : BitVec 1) : ByteOrder := if b = 0 then .big else .little
/-- WO = 0 is big word order, WO = 1 little (R73). -/
def wordOrderOf (b : BitVec 1) : WordOrder := if b = 0 then .big else .little
/-- SG = 0 is unsigned, SG = 1 signed (R74). -/
def signednessOf (b : BitVec 1) : Signedness := if b = 0 then .unsigned else .signed

/-! ## The opcode table and the decoder -/

/-- One row of the opcode table (R79): `w` encodes the command exactly when `(w & mask) = pattern`. -/
structure OpRow where
  mnemonic : String
  pattern : Word
  mask : Word
  /-- The command with its free fields read from the word. -/
  build : Word → Instr

/-- The opcode table, row for row (R79). -/
def opTable : List OpRow :=
  [ { mnemonic := "CRC_INIT", pattern := 0x00000001, mask := 0xFFFFFFFF, build := fun _ => .crcInit },
    { mnemonic := "CRC_BYTE", pattern := 0x00000002, mask := 0x00FFFFFF, build := fun w => .crcByte (fieldIMM8 w) },
    { mnemonic := "ENC_BYTE", pattern := 0x00000010, mask := 0xFFFFFFFF, build := fun _ => .encByte },
    { mnemonic := "ENC_SHORT", pattern := 0x00000011, mask := 0xFFFF0AFF,
      build := fun w => .encShort (byteOrderOf (fieldBO w)) (signednessOf (fieldSG w)) (fieldDEC w).toNat },
    { mnemonic := "DEC_SHORT", pattern := 0x00000012, mask := 0xFFF80AFF,
      build := fun w =>
        .decShort (byteOrderOf (fieldBO w)) (signednessOf (fieldSG w)) (fieldDEC w).toNat (fieldCNT w).toNat },
    { mnemonic := "DEC_F32", pattern := 0x00000013, mask := 0xFFF8FCFF,
      build := fun w => .decF32 (byteOrderOf (fieldBO w)) (wordOrderOf (fieldWO w)) (fieldCNT w).toNat },
    { mnemonic := "BUILD_RDREQ", pattern := 0x00000020, mask := 0xFFFFFFFF, build := fun _ => .buildRdreq },
    { mnemonic := "DEC_RDRESP", pattern := 0x00000021, mask := 0xFFF8FFFF,
      build := fun w => .decRdresp (fieldCNT w).toNat } ]

/-- The row admits the word (R79). -/
def OpRow.admits (r : OpRow) (w : Word) : Bool := w &&& r.mask == r.pattern

/-- Why a word encodes no command, in the words of R80. Every reason has the one effect, IllegalCommand. -/
inductive IllegalWord where
  /-- "OP not in the table" (R80, R83). -/
  | unassignedOp
  /-- "any reserved bit set": bit 11 or bits 23..19 (R78). -/
  | reservedBit
  /-- "a field set that the command does not use" (R80). -/
  | unusedField
deriving DecidableEq, Repr

/-- The opcodes some row assigns (R71, R79). -/
def assignedOps : List (BitVec 8) := opTable.map fun r => fieldOP r.pattern

/-- The name of a word's fault, when no row admits it. -/
def illegalReason (w : Word) : IllegalWord :=
  if assignedOps.contains (fieldOP w) = false then .unassignedOp
  else if w.extractLsb' 11 1 ≠ 0 ∨ w.extractLsb' 19 5 ≠ 0 then .reservedBit
  else .unusedField

/-- `decode(w)`: "the unique command of rule R79 whose `(w & mask) = match`", or the reason there is none (R80). -/
def decode (w : Word) : Except IllegalWord Instr :=
  match opTable.find? (·.admits w) with
  | some r => .ok (r.build w)
  | none => .error (illegalReason w)

/-- The host's question: the instruction the decoder reads from an instruction whose `nbits` bits are `w`. A command word is
one 32-bit value with no byte lanes (R61, R82), so its bits are the table's bits. -/
def decodeTableWord (nbits w : Nat) : Option Instr :=
  match decode (BitVec.ofNat 32 (w % 2 ^ nbits)) with
  | .ok i => some i
  | .error _ => none

/-! ## The encoder -/

/-- The field value of a byte order (R72). -/
def bitOfByteOrder : ByteOrder → BitVec 1
  | .big => 0
  | .little => 1
/-- The field value of a word order (R73). -/
def bitOfWordOrder : WordOrder → BitVec 1
  | .big => 0
  | .little => 1
/-- The field value of a signedness (R74). -/
def bitOfSignedness : Signedness → BitVec 1
  | .unsigned => 0
  | .signed => 1

/-- A command word from its fields, most significant first, the reserved bits 0 (R70, R78). -/
def commandWord (imm8 : BitVec 8) (cnt : BitVec 3) (dec : BitVec 4) (sg wo bo : BitVec 1) (op : BitVec 8) : Word :=
  imm8 ++ 0#5 ++ cnt ++ dec ++ 0#1 ++ sg ++ wo ++ bo ++ op

/-- The word of a command: its opcode (R79), the fields it uses, and 0 in every other field (R80). -/
def encode : Instr → Word
  | .crcInit => commandWord 0 0 0 0 0 0 0x01
  | .crcByte imm8 => commandWord imm8 0 0 0 0 0 0x02
  | .encByte => commandWord 0 0 0 0 0 0 0x10
  | .encShort bo sg dec => commandWord 0 0 (BitVec.ofNat 4 dec) (bitOfSignedness sg) 0 (bitOfByteOrder bo) 0x11
  | .decShort bo sg dec cnt =>
      commandWord 0 (BitVec.ofNat 3 cnt) (BitVec.ofNat 4 dec) (bitOfSignedness sg) 0 (bitOfByteOrder bo) 0x12
  | .decF32 bo wo cnt => commandWord 0 (BitVec.ofNat 3 cnt) 0 0 (bitOfWordOrder wo) (bitOfByteOrder bo) 0x13
  | .buildRdreq => commandWord 0 0 0 0 0 0 0x20
  | .decRdresp cnt => commandWord 0 (BitVec.ofNat 3 cnt) 0 0 0 0 0x21

end Sys2Proof
end

