-- ==== Sys2Proof/Config.lean ====
section
/-! DEFINITION. What the spec leaves OPEN and has a model take as an argument (00_scope.md R7): the arithmetic of ENC_SHORT's
scaling and the window's base address. -/

namespace Sys2Proof

/-- `SCALE_ARITH`, the arithmetic of `value × 10^decimals` (42_codec.md R123, 92 D20, 93 I9). -/
inductive ScaleArith where
  /-- The product rounded once to binary64, ties to even, then truncated: "the default" (R7, R123). -/
  | binary64Rne
  /-- The exact rational product, then truncated. -/
  | exact
deriving DecidableEq, Repr

/-- The size of the register window, 0x40 bytes (R7, R50). -/
def windowBytes : Nat := 0x40

/-- The open parameters of an MBCORE: fixed for the machine, changed by no step. A State carries them, so a statement about
every state is a statement about every value of both (log entries 2 and 3). -/
structure Params where
  /-- Which 0x40-byte slot of the host's address space the window takes. -/
  slot : Nat
  /-- `SCALE_ARITH`. -/
  scaleArith : ScaleArith
deriving DecidableEq, Repr

/-- `BASE`, the window's base address: "a multiple of 0x40" (R7, R50) by construction. -/
def Params.base (p : Params) : Nat := windowBytes * p.slot

/-- The parameters `State.reset` carries: SCALE_ARITH at the spec's default (R7); BASE = 0, DESIGN CHOICE, log entry 2. -/
def Params.standard : Params := ⟨0, .binary64Rne⟩

end Sys2Proof
end

