-- ==== Sys2Proof/Machine/State.lean ====
section
/-! DEFINITION. The state of MBCORE (10_state.md R21), the events of a run (70_reset_and_hazards.md R211), the reasons a step
can stop, and the state after reset (R42, R201). -/

namespace Sys2Proof.Machine

/-- The error kinds a command can end with (60_exceptions.md R180). Not a stop: a value in STATUS (R185). -/
inductive ErrorKind where
  /-- "a numeric field does not fit the byte width required by the protocol". -/
  | rangeError
  /-- "malformed input to a decode operation". -/
  | formatError
  /-- "transport-reported absence of data". -/
  | readError
  /-- "a CMD word that encodes no command". -/
  | illegalCommand
deriving DecidableEq, Repr

/-- STATUS, by its stored fields (R24). The reserved bits are stored nowhere and read as 0 (R28). -/
structure Status where
  /-- ERR, bits [3:0] (R25). -/
  err : BitVec 4
  /-- ERRSEEN, bit [7] (R26). -/
  errSeen : Bool
  /-- LASTOP, bits [15:8] (R27). -/
  lastOp : BitVec 8
deriving DecidableEq, Repr

/-- The block registers of the window (20_memory.md R51). -/
inductive Reg where
  | cmd
  | status
  | crc
  | arg (n : Fin 4)
  | res (n : Fin 2)
  | frame (n : Fin 2)
deriving DecidableEq, Repr

/-- An event of a run (R211). `size` is in bytes and `addr` is a host address, as in `MemWrite(BASE + off, 4, v)` (R13). -/
inductive HostEvent where
  /-- `MemRead(addr, size)` (R52). -/
  | memRead (addr size : Nat)
  /-- `MemWrite(addr, size, value)` (R53, R59). -/
  | memWrite (addr size : Nat) (value : Word)
  /-- The platform asserts reset between two transactions (R200). -/
  | reset
deriving DecidableEq, Repr

/-- A machine stops with a fault in no case: "An error is never a trap, a halt, a stuck state or a reset of the block"
(R185), and 93_implementation_defined.md says "No entry is `stuck`". So there is no constructor. -/
inductive Fault where
deriving DecidableEq, Repr

/-- Why a step is refused: the transaction "has no meaning" and the spec has a model give it no step (R54 to R57, R211). Safe,
each of them: an implementation that does something there may not change a defined register (93 I3 to I5). -/
inductive Refusal where
  /-- Raised by exec for a command that has no meaning yet; no arm raises it. Safe. -/
  | notModelled (mnemonic : String)
  /-- A transaction of a width other than 32 bits (R54). Raised by the window. Safe. -/
  | accessWidth
  /-- An address at which MBCORE's one address space does not lie (R50, R69; log entry 6). Raised by the window. Safe. -/
  | outsideWindow
  /-- An offset that is not a multiple of 4 (R55). Raised by the window. Safe. -/
  | misaligned
  /-- A read or write at a reserved offset (R56). Raised by the window. Safe. -/
  | reservedOffset
  /-- A write to STATUS, CRC, RES0, RES1, FRAME0 or FRAME1 (R57). Raised by the window. Safe. -/
  | readOnlyRegister
deriving DecidableEq, Repr

/-- The state of MBCORE: the registers of R21, the parameters of R7, and the run's own two lists (R211, R212). CRC_TABLE, the
ROM of R31 to R33, never varies and stands as a constant in Machine/Crc.lean (log entry 5). -/
structure State where
  /-- CMD (R23). -/
  cmd : Word
  /-- STATUS (R24). -/
  status : Status
  /-- CRC, the accumulator (R29). -/
  crc : Half
  /-- ARG0 (R30). -/
  arg0 : Word
  /-- ARG1 (R30). -/
  arg1 : Word
  /-- ARG2 (R30). -/
  arg2 : Word
  /-- ARG3 (R30). -/
  arg3 : Word
  /-- RES0 (R34). -/
  res0 : Word
  /-- RES1 (R34). -/
  res1 : Word
  /-- FRAME0 (R35). -/
  frame0 : Word
  /-- FRAME1 (R35). -/
  frame1 : Word
  /-- BASE and SCALE_ARITH (R7): no step changes them. -/
  params : Params
  /-- The events still to come, oldest first (R211; the model's own field, log entry 1). -/
  pending : List HostEvent
  /-- What MemRead has returned to the host, oldest first (R52, R212; the model's own field, log entry 4). -/
  returned : List Word
deriving DecidableEq, Repr

/-- The state right after reset (R42, R201): every register 0 but CRC, which holds 0xFFFF; no event pending. -/
def State.reset : State where
  cmd := 0
  status := { err := 0, errSeen := false, lastOp := 0 }
  crc := 0xFFFF
  arg0 := 0
  arg1 := 0
  arg2 := 0
  arg3 := 0
  res0 := 0
  res1 := 0
  frame0 := 0
  frame1 := 0
  params := .standard
  pending := []
  returned := []

end Sys2Proof.Machine
end

