-- ==== Sys2Proof/Machine/Flags.lean ====
section
/-! DEFINITION. STATUS: the error codes (60_exceptions.md R180), the word the host reads (10_state.md R24, R28), and the three
ways a command changes it (R27, R182, R183). -/

namespace Sys2Proof.Machine

/-- The code of an error kind in STATUS.ERR (R180). Code 0 is "the command completed"; 5 to 15 are never produced. -/
def ErrorKind.code : ErrorKind → BitVec 4
  | .rangeError => 1
  | .formatError => 2
  | .readError => 3
  | .illegalCommand => 4

/-- ERRSEEN as its bit. -/
def Status.errSeenBit (st : Status) : BitVec 1 := if st.errSeen then 1 else 0

/-- STATUS as the host reads it: `{0[31:16], LASTOP, ERRSEEN, 0[6:4], ERR}` (R24, R28). -/
def Status.toWord (st : Status) : Word := 0#16 ++ st.lastOp ++ st.errSeenBit ++ 0#3 ++ st.err

/-- LASTOP <- the opcode byte of a received word (R27). -/
def Status.received (op : BitVec 8) (st : Status) : Status := { st with lastOp := op }

/-- The end of a command without error: ERR <- 0, ERRSEEN unchanged (R182). -/
def Status.completed (st : Status) : Status := { st with err := 0 }

/-- The end of a command by `raise E()`: ERR <- code(E), ERRSEEN <- 1 (R183). -/
def Status.raised (e : ErrorKind) (st : Status) : Status := { st with err := e.code, errSeen := true }

end Sys2Proof.Machine
end

