-- ==== Sys2Proof/Machine/Ops.lean ====
section
/-! DEFINITION. The shared operations over the registers: the register window (20_memory.md R50 to R57), reading a register
(R52), the host's writes of ARG (R53), how a command is received and how it ends (R59, R182 to R184), and the reset event (R200).

MBCORE takes no exceptions (60_exceptions.md R188). What stands in the place of exception entry is `State.raise`: R183, the one
way in which any command reports an error. -/

namespace Sys2Proof.Machine

/-! ## Registers -/

/-- The value of a register as MemRead returns it (R52). -/
def State.readReg (s : State) : Reg → Word
  | .cmd => s.cmd
  | .status => s.status.toWord
  | .crc => s.crc.setWidth 32
  | .arg n => match n with
    | 0 => s.arg0
    | 1 => s.arg1
    | 2 => s.arg2
    | 3 => s.arg3
  | .res n => match n with
    | 0 => s.res0
    | 1 => s.res1
  | .frame n => match n with
    | 0 => s.frame0
    | 1 => s.frame1

/-- `R[ARGn] <- v`, and nothing else (R53). -/
def State.setArg (s : State) (n : Fin 4) (v : Word) : State :=
  match n with
  | 0 => { s with arg0 := v }
  | 1 => { s with arg1 := v }
  | 2 => { s with arg2 := v }
  | 3 => { s with arg3 := v }

/-- `R[CRC] <- v`. -/
def State.setCrc (s : State) (v : Half) : State := { s with crc := v }
/-- `R[RES0] <- v`. -/
def State.setRes0 (s : State) (v : Word) : State := { s with res0 := v }
/-- `R[RES1] <- v`. -/
def State.setRes1 (s : State) (v : Word) : State := { s with res1 := v }
/-- `R[FRAME0] <- v; R[FRAME1] <- w`. -/
def State.setFrame (s : State) (v w : Word) : State := { s with frame0 := v, frame1 := w }

/-! ## The register window -/

/-- The register map (R51): the register at a word-aligned window offset, none where the offset is reserved. -/
def regAt (off : Nat) : Option Reg :=
  match off with
  | 0x00 => some .cmd
  | 0x04 => some .status
  | 0x08 => some .crc
  | 0x10 => some (.arg 0)
  | 0x14 => some (.arg 1)
  | 0x18 => some (.arg 2)
  | 0x1C => some (.arg 3)
  | 0x20 => some (.res 0)
  | 0x24 => some (.res 1)
  | 0x28 => some (.frame 0)
  | 0x2C => some (.frame 1)
  | _ => none

/-- The register a transaction at a host address is for, or why it has no meaning: the width (R54), the window (R50), the
alignment (R55), the register map (R51, R56). No rule orders these reasons; the order shows only in the refusal's name. -/
def locate (p : Params) (addr size : Nat) : Except Refusal Reg :=
  if size ≠ 4 then .error .accessWidth
  else if addr < p.base ∨ p.base + windowBytes ≤ addr then .error .outsideWindow
  else if (addr - p.base) % 4 ≠ 0 then .error .misaligned
  else match regAt (addr - p.base) with
    | some r => .ok r
    | none => .error .reservedOffset

/-- Where a host write goes: it runs a command, or it stores an operand (R53). -/
inductive WriteTarget where
  | command
  | operand (n : Fin 4)
deriving DecidableEq, Repr

/-- A write to a register the host may write; any other is refused (R53, R57). -/
def writeTarget : Reg → Except Refusal WriteTarget
  | .cmd => .ok .command
  | .arg n => .ok (.operand n)
  | .status => .error .readOnlyRegister
  | .crc => .error .readOnlyRegister
  | .res _ => .error .readOnlyRegister
  | .frame _ => .error .readOnlyRegister

/-- The host receives the value of a read (R52, R212). -/
def State.give (s : State) (v : Word) : State := { s with returned := s.returned ++ [v] }

/-! ## A command's beginning and end -/

/-- `R[CMD] <- w; R[STATUS].LASTOP <- w[7:0]`, before the word is decoded (R59, R27). -/
def State.receive (s : State) (w : Word) : State :=
  { s with cmd := w, status := s.status.received (w.extractLsb' 0 8) }

/-- A command that completes: ERR <- 0 (R182). -/
def State.complete (s : State) : State := { s with status := s.status.completed }

/-- `raise E()`: ERR <- code(E), ERRSEEN <- 1, "Nothing else is written" (R183). -/
def State.raise (s : State) (e : ErrorKind) : State := { s with status := s.status.raised e }

/-- The common shape of a command (R184): "computes the whole result as a pure function and writes only on `Ok`". -/
def State.conclude {α : Type} (s : State) (result : Except ErrorKind α) (write : State → α → State) : State :=
  match result with
  | .ok v => (write s v).complete
  | .error e => s.raise e

/-! ## Reset -/

/-- The reset event: every register of R21 at its value of R42, "all at once" (R200). The parameters are the platform's, and
the run's own lists are the outside world's: reset touches neither. -/
def State.resetBlock (s : State) : State :=
  { State.reset with params := s.params, pending := s.pending, returned := s.returned }

end Sys2Proof.Machine
end

