-- ==== Sys2Proof/Machine/Operands.lean ====
section
/-! DEFINITION. Every form in which a command reads its operands (30_encoding.md R81) or packs its results: the views of the
registers as sequences (10_state.md R36 to R38). -/

namespace Sys2Proof.Machine

/-- ARG0 to ARG3 in order. -/
def State.args (s : State) : List Word := [s.arg0, s.arg1, s.arg2, s.arg3]

/-- FRAME0 and FRAME1 in order. -/
def State.frames (s : State) : List Word := [s.frame0, s.frame1]

/-- Byte `i` of a sequence packed into words: byte `i mod 4` of word `i div 4`, byte 0 in bits [7:0] (R36, R38). -/
def byteOf (ws : List Word) (i : Nat) : Byte := (ws.getD (i / 4) 0).extractLsb' (8 * (i % 4)) 8

/-- `opByte(i)`, for i in 0..15 (R36). -/
def State.opByte (s : State) (i : Nat) : Byte := byteOf s.args i

/-- `opReg(j)`, for j in 0..7: half `j mod 2` of ARG word `j div 2` (R37). -/
def State.opReg (s : State) (j : Nat) : Half := (s.args.getD (j / 2) 0).extractLsb' (16 * (j % 2)) 16

/-- `frameByte(i)`, for i in 0..7 (R38). -/
def State.frameByte (s : State) (i : Nat) : Byte := byteOf s.frames i

/-- `[opByte(0), ..., opByte(n-1)]` (R36). -/
def State.operandBytes (s : State) (n : Nat) : List Byte := (List.range n).map s.opByte

/-- `[opReg(0), ..., opReg(n-1)]` (R37). -/
def State.operandRegs (s : State) (n : Nat) : List Half := (List.range n).map s.opReg

/-- `{R[ARG1], R[ARG0]}`, ENC_SHORT's 64-bit operand, ARG1 the high word (R81, R128). -/
def State.operand64 (s : State) : BitVec 64 := s.arg1 ++ s.arg0

/-- Up to four bytes packed into a word, byte `i` in bits [8i+7 : 8i], the rest 0: `zext_32(b)` of ENC_BYTE (R121),
`{0x0000, b1, b0}` of ENC_SHORT (R128), `{fr[3], fr[2], fr[1], fr[0]}` of BUILD_RDREQ (R163). -/
def packWord (bs : List Byte) : Word := bs.getD 3 0 ++ bs.getD 2 0 ++ bs.getD 1 0 ++ bs.getD 0 0

end Sys2Proof.Machine
end

