-- ==== Sys2Proof/Machine/Float.lean ====
section
/-! DEFINITION. The numbers behind the IEEE-754 patterns (42_codec.md R125, R127, R143) and the exact rationals they are
computed with (00_scope.md R10). Arithmetic is exact, on integers and naturals; a rational is held as a fraction. -/

namespace Sys2Proof.Machine

/-! ## Exact rationals -/

/-- The rational `num / den`, not necessarily in lowest terms; `den` is never 0 in what this file builds (R10). -/
structure Ratio where
  num : Int
  den : Nat
deriving DecidableEq, Repr

/-- `n × 2^e`. -/
def Ratio.ofScaled (n : Int) (e : Int) : Ratio := ⟨n * 2 ^ e.toNat, 2 ^ (-e).toNat⟩

/-- `q × k`. -/
def Ratio.timesNat (q : Ratio) (k : Nat) : Ratio := ⟨q.num * k, q.den⟩

/-- `trunc(q)`: the integer nearest to `q` in the direction of zero (R10). -/
def Ratio.trunc (q : Ratio) : Int := q.num.tdiv q.den

/-- For `q ≠ 0`: "the integer with 2^k ≤ a < 2^(k+1)", where `a = |q|` (R127). The two logarithms leave two candidates. -/
def Ratio.floorLog2 (q : Ratio) : Int :=
  let k : Int := (q.num.natAbs.log2 : Int) - q.den.log2
  if 2 ^ k.toNat * q.den ≤ q.num.natAbs * 2 ^ (-k).toNat then k else k - 1

/-- "the integer nearest to m; if m is exactly halfway between two integers, the even one", for `m = n / d` (R127). -/
def nearestEven (n d : Nat) : Nat :=
  let below := n / d
  if 2 * (n % d) < d then below
  else if d < 2 * (n % d) then below + 1
  else if below % 2 = 0 then below
  else below + 1

/-! ## Values of patterns -/

/-- The value of a floating-point pattern: a rational, an infinity or NaN (R125, R143). -/
inductive FpValue where
  | finite (q : Ratio)
  | posInf
  | negInf
  | nan
deriving DecidableEq, Repr

/-- `(−1)^s × n`. -/
def signedBy (s : BitVec 1) (n : Nat) : Int := if s = 0 then n else -n

/-- `b64val(p)`, the value of a binary64 pattern (R125). -/
def b64val (p : BitVec 64) : FpValue :=
  let s := p.extractLsb' 63 1
  let e := (p.extractLsb' 52 11).toNat
  let f := (p.extractLsb' 0 52).toNat
  if e = 2047 then
    if f = 0 then (if s = 0 then .posInf else .negInf) else .nan
  else if e = 0 then .finite (Ratio.ofScaled (signedBy s f) (-1074))
  else .finite (Ratio.ofScaled (signedBy s (2 ^ 52 + f)) ((e : Int) - 1075))

/-- `f32val(p)`, the value of a binary32 pattern (R143). No command computes with it (R144, 93 G4). -/
def f32val (p : Word) : FpValue :=
  let s := p.extractLsb' 31 1
  let e := (p.extractLsb' 23 8).toNat
  let f := (p.extractLsb' 0 23).toNat
  if e = 255 then
    if f = 0 then (if s = 0 then .posInf else .negInf) else .nan
  else if e = 0 then .finite (Ratio.ofScaled (signedBy s f) (-149))
  else .finite (Ratio.ofScaled (signedBy s (2 ^ 23 + f)) ((e : Int) - 150))

/-- A binary32 NaN is "quiet when p[22] = 1, signalling when p[22] = 0" (R143). -/
def f32NanIsQuiet (p : Word) : Bool := p.getLsbD 22

/-! ## Rounding to binary64 -/

/-- What rounding a rational to binary64 gives: "ℚ or +∞ or −∞" (R127). -/
inductive Rounded where
  | finite (q : Ratio)
  | posInf
  | negInf
deriving DecidableEq, Repr

/-- The exponent of the last place: `e <- max(k − 52, −1074)` (R127). -/
def Ratio.lastPlace (q : Ratio) : Int := max (q.floorLog2 - 52) (-1074)

/-- `M`, the integer nearest to `|q| / 2^e`, ties to even (R127). -/
def Ratio.roundedSignificand (q : Ratio) : Nat :=
  nearestEven (q.num.natAbs * 2 ^ (-q.lastPlace).toNat) (q.den * 2 ^ q.lastPlace.toNat)

/-- 2^1024, the least value too large for binary64 (R127). -/
def overflowBound : Int := 2 ^ 1024

/-- The fraction is at least 2^1024, too large for binary64 (R127). -/
def Ratio.tooLarge (q : Ratio) : Bool := overflowBound * q.den ≤ q.num

/-- `rne64(q)`: round to nearest, ties to even, into binary64, subnormals included (R127). -/
def rne64 (q : Ratio) : Rounded :=
  if q.num = 0 then .finite ⟨0, 1⟩
  else if (Ratio.ofScaled q.roundedSignificand q.lastPlace).tooLarge then (if 0 < q.num then .posInf else .negInf)
  else .finite (Ratio.ofScaled (q.num.sign * q.roundedSignificand) q.lastPlace)

end Sys2Proof.Machine
end

