-- ==== Sys2Proof/Machine/Codec.lean ====
section
/-! DEFINITION. The Value Codec (42_codec.md): encodeByte, encodeShort, decodeShort and decodeFloat32 as pure functions, and
the commands ENC_BYTE, ENC_SHORT, DEC_SHORT and DEC_F32 that expose them. -/

namespace Sys2Proof.Machine

/-! ## encodeByte and ENC_BYTE -/

/-- `encodeByte(n)` (R120). -/
def encodeByte (n : Int) : Except ErrorKind (List Byte) :=
  if 0 ≤ n ∧ n ≤ 255 then .ok [BitVec.ofInt 8 n] else .error .rangeError

/-- ENC_BYTE (R121). -/
def execEncByte (s : State) : Host.Outcome State Fault Refusal :=
  .next (s.conclude (encodeByte s.arg0.toInt) fun t bs => t.setRes0 (packWord bs))

/-! ## encodeShort and ENC_SHORT -/

/-- `scaled(x, d)` for the value `v` of `x`: the truncated integer, or none for Overflow (R123). -/
def scaled (mode : ScaleArith) (v : Ratio) (d : Nat) : Option Int :=
  match mode with
  | .binary64Rne =>
    match rne64 (v.timesNat (10 ^ d)) with
    | .finite p => some p.trunc
    | .posInf => none
    | .negInf => none
  | .exact => some (v.timesNat (10 ^ d)).trunc

/-- The 16-bit range SG selects (R74, R122). -/
def inShortRange (sg : Signedness) (n : Int) : Bool :=
  match sg with
  | .unsigned => 0 ≤ n && n ≤ 65535
  | .signed => -32768 ≤ n && n ≤ 32767

/-- A 16-bit unit as two bytes in wire order (R124). -/
def pack16 (u : Half) (bo : ByteOrder) : List Byte :=
  match bo with
  | .big => [u.extractLsb' 8 8, u.extractLsb' 0 8]
  | .little => [u.extractLsb' 0 8, u.extractLsb' 8 8]

/-- An integer packed into two bytes, or RangeError where it does not fit (R122, last three lines). -/
def packShort (sg : Signedness) (bo : ByteOrder) (n : Int) : Except ErrorKind (List Byte) :=
  if inShortRange sg n then .ok (pack16 (BitVec.ofInt 16 n) bo) else .error .rangeError

/-- `encodeShort(x, d, le, sg)` (R122); NaN and the infinities fail (R126). -/
def encodeShort (mode : ScaleArith) (x : BitVec 64) (d : Nat) (bo : ByteOrder) (sg : Signedness) :
    Except ErrorKind (List Byte) :=
  match b64val x with
  | .finite v =>
    match scaled mode v d with
    | some n => packShort sg bo n
    | none => .error .rangeError
  | .posInf => .error .rangeError
  | .negInf => .error .rangeError
  | .nan => .error .rangeError

/-- ENC_SHORT (R128). -/
def execEncShort (bo : ByteOrder) (sg : Signedness) (dec : Nat) (s : State) : Host.Outcome State Fault Refusal :=
  .next (s.conclude (encodeShort s.params.scaleArith s.operand64 dec bo sg) fun t bs => t.setRes0 (packWord bs))

/-! ## decodeShort and DEC_SHORT -/

/-- The 16-bit unit two bytes in wire order make (R129). -/
def unpack16 (b0 b1 : Byte) (bo : ByteOrder) : Half :=
  match bo with
  | .big => b0 ++ b1
  | .little => b1 ++ b0

/-- The integer a 16-bit unit stands for (R129). -/
def shortInt (sg : Signedness) (u : Half) : Int :=
  match sg with
  | .unsigned => u.toNat
  | .signed => u.toInt

/-- `decodeShort(bs, d, le, sg)`: the pair stands for `N / 10^d` (R129, R131). Any length but 2 fails (90 C1). -/
def decodeShort (bs : List Byte) (d : Nat) (bo : ByteOrder) (sg : Signedness) : Except ErrorKind (Int × Nat) :=
  match bs with
  | [b0, b1] => .ok (shortInt sg (unpack16 b0 b1 bo), d)
  | _ => .error .formatError

/-- The rational a decoded pair stands for, `N / 10^d` (R131). The block does not divide: no command computes it. -/
def shortValue (n : Int) (d : Nat) : Ratio := ⟨n, 10 ^ d⟩

/-- DEC_SHORT (R130). -/
def execDecShort (bo : ByteOrder) (sg : Signedness) (dec cnt : Nat) (s : State) : Host.Outcome State Fault Refusal :=
  .next (s.conclude (decodeShort (s.operandBytes cnt) dec bo sg) fun t r =>
    (t.setRes0 (BitVec.ofInt 32 r.1)).setRes1 ((BitVec.ofNat 4 r.2).setWidth 32))

/-! ## decodeFloat32 and DEC_F32 -/

/-- `sw(v)`: a Modbus register's two bytes, exchanged where the byte order is little-endian (R140). -/
def swapBytes (bo : ByteOrder) (v : Half) : Half :=
  match bo with
  | .big => v
  | .little => v.extractLsb' 0 8 ++ v.extractLsb' 8 8

/-- `{sw(hi), sw(lo)}` of two Modbus registers (R140, R141). -/
def assemble32 (bo : ByteOrder) (wo : WordOrder) (r0 r1 : Half) : Word :=
  match wo with
  | .big => swapBytes bo r0 ++ swapBytes bo r1
  | .little => swapBytes bo r1 ++ swapBytes bo r0

/-- `decodeFloat32(regs, bo, wo)`: the 32-bit pattern, bit for bit (R140, R144). -/
def decodeFloat32 (regs : List Half) (bo : ByteOrder) (wo : WordOrder) : Except ErrorKind Word :=
  match regs with
  | [r0, r1] => .ok (assemble32 bo wo r0 r1)
  | _ => .error .formatError

/-- DEC_F32 (R142). -/
def execDecF32 (bo : ByteOrder) (wo : WordOrder) (cnt : Nat) (s : State) : Host.Outcome State Fault Refusal :=
  .next (s.conclude (decodeFloat32 (s.operandRegs cnt) bo wo) State.setRes0)

end Sys2Proof.Machine
end

