-- ==== Sys2Proof/Machine/Frame.lean ====
section
/-! DEFINITION. The Frame Builder / Validator (43_frame.md): buildReadRequest and decodeReadResponse, and the commands
BUILD_RDREQ and DEC_RDRESP. -/

namespace Sys2Proof.Machine

/-- `encodeShort16(v)`: encodeShort "with default big-endian, unscaled, unsigned settings", for an integer (R161). -/
def encodeShort16 (v : Int) : Except ErrorKind (List Byte) := packShort .unsigned .big v

/-- The six bytes before the checksum, in wire order (R160). One field out of range fails the whole (R162). -/
def requestBody (a f st c : Int) : Except ErrorKind (List Byte) := do
  let addressByte ← encodeByte a
  let functionByte ← encodeByte f
  let startBytes ← encodeShort16 st
  let countBytes ← encodeShort16 c
  return addressByte ++ functionByte ++ startBytes ++ countBytes

/-- `buildReadRequest(a, f, st, c)`: the body and its checksum, low byte first (R160). -/
def buildReadRequest (a f st c : Int) : Except ErrorKind (List Byte) :=
  (requestBody a f st c).map fun body => body ++ crcBytes (checksum body)

/-- Where BUILD_RDREQ puts a frame: FRAME0, FRAME1, and the checksum in RES0 (R163). -/
def State.setRequest (s : State) (fr : List Byte) : State :=
  (s.setFrame (packWord (fr.take 4)) (packWord (fr.drop 4))).setRes0 (packWord (fr.drop 6))

/-- BUILD_RDREQ (R163). It neither reads nor writes the CRC accumulator. -/
def execBuildRdreq (s : State) : Host.Outcome State Fault Refusal :=
  .next (s.conclude (buildReadRequest s.arg0.toInt s.arg1.toInt s.arg2.toInt s.arg3.toInt) State.setRequest)

/-- `decodeReadResponse(regs)`: an absent or empty buffer first, then decodeFloat32 with big-endian bytes and little-endian
words (R165, R186). -/
def decodeReadResponse (regs : List Half) : Except ErrorKind Word :=
  if regs.length = 0 then .error .readError else decodeFloat32 regs .big .little

/-- DEC_RDRESP (R166). -/
def execDecRdresp (cnt : Nat) (s : State) : Host.Outcome State Fault Refusal :=
  .next (s.conclude (decodeReadResponse (s.operandRegs cnt)) State.setRes0)

end Sys2Proof.Machine
end

