-- ==== Sys2Proof/Machine/Dispatch.lean ====
section
/-! DEFINITION. exec: one arm per command, each a direct call of its meaning. -/

namespace Sys2Proof.Machine

/-- The effect of a command that has been received and decoded (20_memory.md R59, "execute op"). -/
def exec (i : Instr) (s : State) : Host.Outcome State Fault Refusal :=
  match i with
  | .crcInit => Sys2Proof.Machine.execCrcInit s
  | .crcByte imm8 => Sys2Proof.Machine.execCrcByte imm8 s
  | .encByte => Sys2Proof.Machine.execEncByte s
  | .encShort bo sg dec => Sys2Proof.Machine.execEncShort bo sg dec s
  | .decShort bo sg dec cnt => Sys2Proof.Machine.execDecShort bo sg dec cnt s
  | .decF32 bo wo cnt => Sys2Proof.Machine.execDecF32 bo wo cnt s
  | .buildRdreq => Sys2Proof.Machine.execBuildRdreq s
  | .decRdresp cnt => Sys2Proof.Machine.execDecRdresp cnt s

end Sys2Proof.Machine
end

