-- ==== Sys2Proof/Machine/Transaction.lean ====
section
/-! DEFINITION. One event of a run served whole: a host read (20_memory.md R52), a host write (R53), the command a CMD write
runs (R59), a reset (70_reset_and_hazards.md R200). -/

namespace Sys2Proof.Machine

/-- `MemWrite(BASE + 0x00, 4, w)`: receive the word, decode it, execute it or raise IllegalCommand (R59, R80). -/
def runCommand (w : Word) (s : State) : Host.Outcome State Fault Refusal :=
  match decode w with
  | .ok i => exec i (s.receive w)
  | .error _ => .next ((s.receive w).raise .illegalCommand)

/-- `MemRead(addr, size)`: the register's value goes to the host; no register changes (R52, R58). -/
def serveRead (addr size : Nat) (s : State) : Host.Outcome State Fault Refusal :=
  match locate s.params addr size with
  | .ok r => .next (s.give (s.readReg r))
  | .error why => .refused why

/-- `MemWrite(addr, size, value)`: a command, an operand, or no meaning (R53, R57). -/
def serveWrite (addr size : Nat) (value : Word) (s : State) : Host.Outcome State Fault Refusal :=
  match (locate s.params addr size).bind writeTarget with
  | .ok .command => runCommand value s
  | .ok (.operand n) => .next (s.setArg n value)
  | .error why => .refused why

/-- One event of a run (R211). -/
def serve (ev : HostEvent) (s : State) : Host.Outcome State Fault Refusal :=
  match ev with
  | .memRead addr size => serveRead addr size s
  | .memWrite addr size value => serveWrite addr size value s
  | .reset => .next s.resetBlock

/-- The next event of the run is taken off the list and served; with none left the block waits, and "Its state changes only on
a host transaction or a reset" (R197, R203; log entry 1). -/
def serveNext (s : State) : Host.Outcome State Fault Refusal :=
  match s.pending with
  | [] => .next s
  | ev :: rest => serve ev { s with pending := rest }

/-- The write that hands the block a command word: `MemWrite(BASE + 0x00, 4, w)` (R59). -/
def commandWrite (p : Params) (w : Word) : HostEvent := .memWrite p.base 4 w

end Sys2Proof.Machine
end

