-- ==== Sys2Proof/Machine/Step.lean ====
section
/-! DEFINITION. The step of MBCORE, and how a command word is placed where the next step finds it. -/

namespace Sys2Proof.Machine

/-- One step: the oldest pending event, served whole (20_memory.md R62, R63). -/
def step (s : State) : Host.Outcome State Fault Refusal := serveNext s

/-- `s` with the host about to write the `nbits`-bit word `w` to CMD, before anything else that is pending. MBCORE fetches no
instructions (10_state.md R22): a command comes to run by a CMD write (R59), which the next step serves (log entry 1). -/
def State.withFetchWord (s : State) (nbits w : Nat) : State :=
  { s with pending := commandWrite s.params (BitVec.ofNat 32 (w % 2 ^ nbits)) :: s.pending }

end Sys2Proof.Machine
end

