-- ==== Sys2Proof/Machine/Assembler.lean ====
section
/-! DEFINITION. The assembler's lines and pseudo-instructions as host transactions (30_encoding.md R85, R86). They are the
host's notation: the block sees only the transactions. -/

namespace Sys2Proof.Machine

/-- The window offset of a register (20_memory.md R51). -/
def regOffset : Reg → Nat
  | .cmd => 0x00
  | .status => 0x04
  | .crc => 0x08
  | .arg n => 0x10 + 4 * n.val
  | .res n => 0x20 + 4 * n.val
  | .frame n => 0x28 + 4 * n.val

/-- A line of R85's syntax, one host transaction. `le` and `s` say whether the option stands on the line. -/
inductive Line where
  /-- `wr ARGn, imm32` -/
  | wr (n : Fin 4) (imm32 : Word)
  /-- `rd REG` -/
  | rd (r : Reg)
  /-- `crc.init` -/
  | crcInit
  /-- `crc.byte imm8` -/
  | crcByte (imm8 : Byte)
  /-- `enc.byte` -/
  | encByte
  /-- `enc.short [le] [s] [d=k]` -/
  | encShort (le s : Bool) (k : BitVec 4)
  /-- `dec.short n=c [le] [s] [d=k]` -/
  | decShort (c : BitVec 3) (le s : Bool) (k : BitVec 4)
  /-- `dec.f32 n=c bo=… wo=…`, both options written out or at their defaults -/
  | decF32 (c : BitVec 3) (bo wo : Bool)
  /-- `build.rdreq` -/
  | buildRdreq
  /-- `dec.rdresp n=c` -/
  | decRdresp (c : BitVec 3)
  /-- `cmd imm32`: a literal word, legal or not -/
  | cmd (imm32 : Word)
deriving DecidableEq, Repr

/-- `dec.f32 n=c` with no option: `bo=be`, `wo=le` (R85, 90_conflicts.md C3). -/
def Line.decF32Default (c : BitVec 3) : Line := .decF32 c false true

/-- A one-bit option at its bit position. -/
def optionAt (b : Bool) (k : Nat) : Word := if b then 1#32 <<< k else 0

/-- The word a line writes to CMD, by R85's formulas; none for `wr` and `rd`. -/
def Line.word : Line → Option Word
  | .wr _ _ => none
  | .rd _ => none
  | .crcInit => some 0x00000001
  | .crcByte imm8 => some (imm8.setWidth 32 <<< 24 ||| 0x02)
  | .encByte => some 0x00000010
  | .encShort le s k => some (0x11 ||| optionAt le 8 ||| optionAt s 10 ||| k.setWidth 32 <<< 12)
  | .decShort c le s k =>
      some (0x12 ||| optionAt le 8 ||| optionAt s 10 ||| k.setWidth 32 <<< 12 ||| c.setWidth 32 <<< 16)
  | .decF32 c bo wo => some (0x13 ||| optionAt bo 8 ||| optionAt wo 9 ||| c.setWidth 32 <<< 16)
  | .buildRdreq => some 0x00000020
  | .decRdresp c => some (0x21 ||| c.setWidth 32 <<< 16)
  | .cmd imm32 => some imm32

/-- The transaction of a line (R85). -/
def Line.event (p : Params) (l : Line) : HostEvent :=
  match l with
  | .wr n imm32 => .memWrite (p.base + 0x10 + 4 * n.val) 4 imm32
  | .rd r => .memRead (p.base + regOffset r) 4
  | l => commandWrite p (l.word.getD 0)

/-! ## Pseudo-instructions (R86) -/

/-- `checksum b0, ..., b(n-1)`. -/
def checksumLines (bs : List Byte) : List Line := .crcInit :: bs.map .crcByte

/-- `frame a, f, s, c`: "Integers are written as `bits_32`". -/
def frameLines (a f s c : Int) : List Line :=
  [.wr 0 (BitVec.ofInt 32 a), .wr 1 (BitVec.ofInt 32 f), .wr 2 (BitVec.ofInt 32 s), .wr 3 (BitVec.ofInt 32 c), .buildRdreq]

/-- `f32pair r0, r1`: ARG0 <- `(r1 << 16) | r0`. -/
def f32pairLines (r0 r1 : Half) : List Line := [.wr 0 (r1.setWidth 32 <<< 16 ||| r0.setWidth 32)]

/-- `resp r0, r1`. -/
def respLines (r0 r1 : Half) : List Line := f32pairLines r0 r1 ++ [.decRdresp 2]

/-- `bits64(x)`: the binary64 pattern of a rational literal, "converted to the nearest binary64 value, ties to even" (R86, 93
G5). A significand that rounds up to 2^53 carries into the exponent. DESIGN CHOICE, log entry 11, three points on which R86 is
silent: a literal too large for binary64 gives the infinity of its sign; a negative literal that rounds to zero gives −0; the
literal zero gives +0. ENC_SHORT ends alike whichever way each is settled. -/
def bits64 (x : Ratio) : BitVec 64 :=
  match rne64 x with
  | .posInf => 0x7FF0000000000000
  | .negInf => 0xFFF0000000000000
  | .finite _ =>
    if x.num = 0 then 0
    else (if x.num < 0 then 1#1 else 0#1) ++
      BitVec.ofNat 63 ((x.lastPlace + 1074).toNat * 2 ^ 52 + x.roundedSignificand)

/-- `short64 x`: the low word of `bits64(x)` to ARG0, the high word to ARG1. -/
def short64Lines (x : Ratio) : List Line :=
  [.wr 0 ((bits64 x).extractLsb' 0 32), .wr 1 ((bits64 x).extractLsb' 32 32)]

end Sys2Proof.Machine
end

