-- ==== Sys2Proof/Safety.lean ====
section
/-! DEFINITION. The terms in which claims about MBCORE are stated: legal transactions (20_memory.md R52, R53), what holds in
every reachable state (10_state.md R25, R26, R27, 43_frame.md R164, 60_exceptions.md R181), and the rules' arithmetic read in ℚ
(42_codec.md R125, R127). Nothing here is called by the machine. -/

namespace Sys2Proof.Machine

/-! ## Legal transactions -/

/-- The readable offsets (R51, R52). -/
def readableOffsets : List Nat := [0x00, 0x04, 0x08, 0x10, 0x14, 0x18, 0x1C, 0x20, 0x24, 0x28, 0x2C]

/-- The writable offsets: CMD and the operands (R51, R53). -/
def writableOffsets : List Nat := [0x00, 0x10, 0x14, 0x18, 0x1C]

/-- The event has a step: a read or write of 4 bytes at an offset of R52 or R53, or a reset (R211). -/
def HostEvent.legal (p : Params) : HostEvent → Bool
  | .memRead addr size => size = 4 && decide (p.base ≤ addr) && readableOffsets.contains (addr - p.base)
  | .memWrite addr size _ => size = 4 && decide (p.base ≤ addr) && writableOffsets.contains (addr - p.base)
  | .reset => true

/-- The word an event writes to CMD, if it is a legal CMD write (R59). -/
def HostEvent.commandWord (p : Params) : HostEvent → Option Word
  | .memRead _ _ => none
  | .memWrite addr size w => if addr = p.base ∧ size = 4 then some w else none
  | .reset => none

/-- The byte an event feeds to the accumulator, if it is a CRC_BYTE command (41_crc.md R108). -/
def HostEvent.fedByte (p : Params) (ev : HostEvent) : Option Byte :=
  match (ev.commandWord p).map decode with
  | some (.ok (.crcByte b)) => some b
  | _ => none

/-- The event leaves a streamed checksum running: it is no reset and no CRC_INIT (R109, R208). -/
def HostEvent.keepsStream (p : Params) (ev : HostEvent) : Bool :=
  ev ≠ .reset && (ev.commandWord p).map decode ≠ some (.ok .crcInit)

/-! ## The states a claim names -/

/-- `s` once the word `w` has been received and `rest` is still to come: CMD and LASTOP written, nothing else (R59, R27). -/
def State.holding (s : State) (w : Word) (rest : List HostEvent) : State :=
  { s with cmd := w, status := ⟨s.status.err, s.status.errSeen, w.extractLsb' 0 8⟩, pending := rest }

/-- `s` once the word `w` has been received and found illegal: besides CMD and LASTOP, ERR = 4 and ERRSEEN = 1 (R80, R183). -/
def State.rejecting (s : State) (w : Word) (rest : List HostEvent) : State :=
  { s with cmd := w, status := ⟨4, true, w.extractLsb' 0 8⟩, pending := rest }

/-- `s` with ERR = 0 and nothing else changed (R182). -/
def State.ended (s : State) : State := { s with status := ⟨0, s.status.errSeen, s.status.lastOp⟩ }

/-- `s` with ERR = `code` and ERRSEEN = 1 and nothing else changed (R183). -/
def State.failed (s : State) (code : BitVec 4) : State := { s with status := ⟨code, true, s.status.lastOp⟩ }

/-- `s` with the given STATUS: what a statement says of everything but STATUS. -/
def State.withStatus (s : State) (st : Status) : State := { s with status := st }

/-! ## What holds in every reachable state -/

/-- R181's table: the codes a legal command can leave in ERR. -/
def mayEndWith (i : Instr) (err : BitVec 4) : Bool :=
  match i with
  | .crcInit => err = 0
  | .crcByte _ => err = 0
  | .encByte => err = 0 || err = 1
  | .encShort _ _ _ => err = 0 || err = 1
  | .decShort _ _ _ cnt => if cnt = 2 then err = 0 else err = 2
  | .decF32 _ _ cnt => if cnt = 2 then err = 0 else err = 2
  | .buildRdreq => err = 0 || err = 1
  | .decRdresp cnt => if cnt = 2 then err = 0 else if cnt = 0 then err = 3 else err = 2

/-- ERR is one that R181 gives the word in CMD: 4 for an illegal word (0 while CMD still holds its reset value). -/
def State.errFitsCmd (s : State) : Bool :=
  match decode s.cmd with
  | .ok i => mayEndWith i s.status.err
  | .error _ => s.status.err = 4 || (s.cmd = 0 && s.status.err = 0)

/-- STATUS agrees with the command it reports: LASTOP is CMD's opcode byte (R23, R27), an error is on ERRSEEN's record (R26),
ERR is a code R181 gives that command (R25). -/
structure State.StatusCoherent (s : State) : Prop where
  lastOp_eq : s.status.lastOp = s.cmd.extractLsb' 0 8
  seen : s.status.err ≠ 0 → s.status.errSeen = true
  err_fits : s.errFitsCmd = true

/-- FRAME holds its reset value, or a frame whose last two bytes are the checksum of the first six, low byte first (R35, R164). -/
def State.FrameChecked (s : State) : Prop :=
  (s.frame0 = 0 ∧ s.frame1 = 0) ∨
    [s.frameByte 6, s.frameByte 7] = crcBytes (checksum ((List.range 6).map s.frameByte))

/-- RES1 holds a DEC: only DEC_SHORT writes it, with a zero-extended 4-bit value (R34, R130). -/
def State.Res1IsDecimals (s : State) : Prop := s.res1.toNat < 16

/-- The three together. -/
structure State.Inv (s : State) : Prop where
  status : s.StatusCoherent
  frame : s.FrameChecked
  res1 : s.Res1IsDecimals

/-! ## The arithmetic rules in ℚ -/

/-- The rational a fraction stands for. -/
def Ratio.toRat (q : Ratio) : ℚ := (q.num : ℚ) / (q.den : ℚ)

/-- `trunc(q)`: toward zero (R10). -/
def truncRat (q : ℚ) : ℤ := if 0 ≤ q then ⌊q⌋ else ⌈q⌉

/-- `b64val(p)` in ℚ, none for the infinities and NaN (R125). -/
def b64Rat (p : BitVec 64) : Option ℚ :=
  let s := (p.extractLsb' 63 1).toNat
  let e := (p.extractLsb' 52 11).toNat
  let f := (p.extractLsb' 0 52).toNat
  if e = 2047 then none
  else if e = 0 then some ((-1) ^ s * f * 2 ^ (-1074 : ℤ))
  else some ((-1) ^ s * (2 ^ 52 + f) * 2 ^ ((e : ℤ) - 1075))

/-- `f32val(p)` in ℚ, none for the infinities and NaN (R143). -/
def f32Rat (p : Word) : Option ℚ :=
  let s := (p.extractLsb' 31 1).toNat
  let e := (p.extractLsb' 23 8).toNat
  let f := (p.extractLsb' 0 23).toNat
  if e = 255 then none
  else if e = 0 then some ((-1) ^ s * f * 2 ^ (-149 : ℤ))
  else some ((-1) ^ s * (2 ^ 23 + f) * 2 ^ ((e : ℤ) - 150))

/-- `m` is nearest to the integer `M`; "if m is exactly halfway between two integers, the even one" (R127). -/
def IsNearestEven (m : ℚ) (M : ℤ) : Prop := |m - M| < 1 / 2 ∨ (|m - M| = 1 / 2 ∧ Even M)

/-- 2^1024 in ℚ (R127). -/
def overflowBoundRat : ℚ := 2 ^ (1024 : ℤ)

/-- `r` is `rne64(q)`, line for line as R127 defines it over ℚ. -/
def RoundsTo (q : ℚ) (r : Rounded) : Prop :=
  (q = 0 ∧ ∃ z, r = .finite z ∧ z.toRat = 0) ∨
  (q ≠ 0 ∧ ∃ k M : ℤ, (2 : ℚ) ^ k ≤ |q| ∧ |q| < (2 : ℚ) ^ (k + 1) ∧
    IsNearestEven (|q| / (2 : ℚ) ^ max (k - 52) (-1074)) M ∧
    if overflowBoundRat ≤ M * (2 : ℚ) ^ max (k - 52) (-1074) then r = (if 0 < q then .posInf else .negInf)
    else ∃ z, r = .finite z ∧ z.toRat = SignType.sign q * M * (2 : ℚ) ^ max (k - 52) (-1074))

/-- `S` is `scaled(x, d)` for the value `v` of `x`, none for Overflow, line for line as R123 defines it over ℚ. -/
def ScaledTo (mode : ScaleArith) (v : ℚ) (d : Nat) (S : Option ℤ) : Prop :=
  match mode with
  | .binary64Rne => ∃ r, RoundsTo (v * 10 ^ d) r ∧ S = (match r with
      | .finite z => some (truncRat z.toRat)
      | .posInf => none
      | .negInf => none)
  | .exact => S = some (truncRat (v * 10 ^ d))

/-- The integers SG admits (R74, R122). -/
def ShortRange (sg : Signedness) (n : ℤ) : Prop :=
  match sg with
  | .unsigned => 0 ≤ n ∧ n ≤ 65535
  | .signed => -32768 ≤ n ∧ n ≤ 32767

end Sys2Proof.Machine
end

