-- ==== Sys2Proof/Certificates/Slice0/Obligations.lean ====
section
/-! DEFINITION. The statements for the provers. Each docstring names the rule or section of spec/ it formalises. A CMD write of
`w` stands as the event `.memWrite s.params.base 4 w` at the head of `pending`. -/

open Sys2Proof Sys2Proof.Machine

/-! ## Encoding -/

/-- 30_encoding.md R79, row by row: `w` encodes the command exactly when `(w & mask) = match`, its free fields read from their
bits; and a word that meets no row decodes to no command. -/
def Obligations.WordsDecodeByMaskAndMatch : Prop :=
  ∀ w : Word,
    ((w &&& 0xFFFFFFFF = 0x00000001) ↔ decode w = .ok .crcInit) ∧
    ((w &&& 0x00FFFFFF = 0x00000002) ↔ decode w = .ok (.crcByte (w.extractLsb' 24 8))) ∧
    ((w &&& 0xFFFFFFFF = 0x00000010) ↔ decode w = .ok .encByte) ∧
    ((w &&& 0xFFFF0AFF = 0x00000011) ↔
      decode w = .ok (.encShort (if w.getLsbD 8 then .little else .big) (if w.getLsbD 10 then .signed else .unsigned)
        (w.extractLsb' 12 4).toNat)) ∧
    ((w &&& 0xFFF80AFF = 0x00000012) ↔
      decode w = .ok (.decShort (if w.getLsbD 8 then .little else .big) (if w.getLsbD 10 then .signed else .unsigned)
        (w.extractLsb' 12 4).toNat (w.extractLsb' 16 3).toNat)) ∧
    ((w &&& 0xFFF8FCFF = 0x00000013) ↔
      decode w = .ok (.decF32 (if w.getLsbD 8 then .little else .big) (if w.getLsbD 9 then .little else .big)
        (w.extractLsb' 16 3).toNat)) ∧
    ((w &&& 0xFFFFFFFF = 0x00000020) ↔ decode w = .ok .buildRdreq) ∧
    ((w &&& 0xFFF8FFFF = 0x00000021) ↔ decode w = .ok (.decRdresp (w.extractLsb' 16 3).toNat)) ∧
    ((w &&& 0xFFFFFFFF ≠ 0x00000001 ∧ w &&& 0x00FFFFFF ≠ 0x00000002 ∧ w &&& 0xFFFFFFFF ≠ 0x00000010 ∧
      w &&& 0xFFFF0AFF ≠ 0x00000011 ∧ w &&& 0xFFF80AFF ≠ 0x00000012 ∧ w &&& 0xFFF8FCFF ≠ 0x00000013 ∧
      w &&& 0xFFFFFFFF ≠ 0x00000020 ∧ w &&& 0xFFF8FFFF ≠ 0x00000021) ↔ ∃ why, decode w = .error why)

/-- Sections 1 and 2 of 30_encoding.md: no field of a well-formed command is lost in its word. -/
def Obligations.DecodeOfEncodeIsTheCommand : Prop :=
  ∀ i : Instr, WellFormed i = true → decode (encode i) = .ok i

/-- Sections 1 and 2 of 30_encoding.md: a command has one word only, so a word that decodes is the word of what it decodes to. -/
def Obligations.EncodeOfDecodeIsTheWord : Prop :=
  ∀ (w : Word) (i : Instr), decode w = .ok i → WellFormed i = true ∧ encode i = w

/-- Words written out in 95_test_vectors.md and 30_encoding.md R85 stand for the commands those files say (a sanity statement). -/
def Obligations.SampleWordsDecode : Prop :=
  decode 0x00000001 = .ok .crcInit ∧
  decode 0xFF000002 = .ok (.crcByte 0xFF) ∧
  decode 0x00000010 = .ok .encByte ∧
  decode 0x00002111 = .ok (.encShort .little .unsigned 2) ∧
  decode 0x00021412 = .ok (.decShort .big .signed 1 2) ∧
  decode 0x00020213 = .ok (.decF32 .big .little 2) ∧
  decode 0x00000020 = .ok .buildRdreq ∧
  decode 0x00070021 = .ok (.decRdresp 7) ∧
  decode 0x00000000 = .error .unassignedOp ∧
  decode 0x00000813 = .error .reservedBit ∧
  decode 0x00010011 = .error .unusedField

/-- Section 5 of 30_encoding.md (R85's formulas against R79's table): each assembler line with options writes the word of the
command it names, and `dec.f32 n=c` without options is big-endian bytes with little-endian words. -/
def Obligations.AssemblerLinesWriteTheirCommands : Prop :=
  ∀ (b : Byte) (c : BitVec 3) (k : BitVec 4) (le s wo : Bool),
    (Line.crcByte b).word = some (encode (.crcByte b)) ∧
    (Line.encShort le s k).word =
      some (encode (.encShort (if le then .little else .big) (if s then .signed else .unsigned) k.toNat)) ∧
    (Line.decShort c le s k).word =
      some (encode (.decShort (if le then .little else .big) (if s then .signed else .unsigned) k.toNat c.toNat)) ∧
    (Line.decF32 c le wo).word =
      some (encode (.decF32 (if le then .little else .big) (if wo then .little else .big) c.toNat)) ∧
    (Line.decF32Default c).word = some (encode (.decF32 .big .little c.toNat)) ∧
    (Line.decRdresp c).word = some (encode (.decRdresp c.toNat))

/-! ## The CRC engine -/

/-- 10_state.md R31: entry `i` is the eighth value of the reduction that starts from `i`. -/
def Obligations.TableEntriesFollowTheReduction : Prop :=
  crcTable.length = 256 ∧
  ∀ (i : Byte) (r : Nat → Half), r 0 = i.setWidth 16 →
    (∀ k, r (k + 1) = if (r k).getLsbD 0 then (r k >>> 1) ^^^ 0xA001 else r k >>> 1) → tableEntry i = r 8

/-- 41_crc.md R102: the table step is the bitwise step. -/
def Obligations.TableStepIsTheBitwiseStep : Prop :=
  ∀ (r : Half) (b : Byte), crcStep r b = crcStepBitwise r b

/-- 93_implementation_defined.md G7 and section 1 of 41_crc.md: a message followed by its own checksum has checksum 0. -/
def Obligations.MessageWithItsChecksumHasChecksumZero : Prop :=
  ∀ bs : List Byte, checksum (bs ++ crcBytes (checksum bs)) = 0

/-- 41_crc.md R107: CRC_INIT's effect, whole, and which of the words with its opcode run it. -/
def Obligations.CrcInitSetsTheAccumulator : Prop :=
  (∀ s : State, exec .crcInit s = .next { s.ended with crc := 0xFFFF }) ∧
  (∀ (s : State) (w : Word) (rest : List HostEvent),
    s.pending = .memWrite s.params.base 4 w :: rest → w.extractLsb' 0 8 = 0x01 →
    step s = if w = 0x00000001 then exec .crcInit (s.holding w rest) else .next (s.rejecting w rest))

/-- 41_crc.md R108: CRC_BYTE's effect, whole, by the bitwise step of R101, and which of the words with its opcode run it. -/
def Obligations.CrcByteStepsTheAccumulator : Prop :=
  (∀ (s : State) (b : Byte), exec (.crcByte b) s = .next { s.ended with crc := crcStepBitwise s.crc b }) ∧
  (∀ (s : State) (w : Word) (rest : List HostEvent),
    s.pending = .memWrite s.params.base 4 w :: rest → w.extractLsb' 0 8 = 0x02 →
    step s = if w.extractLsb' 8 16 = 0 then exec (.crcByte (w.extractLsb' 24 8)) (s.holding w rest)
      else .next (s.rejecting w rest))

/-- 41_crc.md R109: from a CRC_INIT or a reset, over legal events among which there is no other CRC_INIT and no reset, the
accumulator is the checksum of the bytes that CRC_BYTE fed, whatever else ran between them, and the host reads its wire bytes
from CRC, the low one first. -/
def Obligations.StreamedChecksumIsTheChecksum : Prop :=
  ∀ (s : State) (start : HostEvent) (evs rest : List HostEvent),
    start = .memWrite s.params.base 4 0x00000001 ∨ start = .reset →
    s.pending = start :: (evs ++ rest) →
    (∀ ev ∈ evs, ev.legal s.params = true ∧ ev.keepsStream s.params = true) →
    ∃ t, Host.Core.run core (evs.length + 1) s = .next t ∧ t.pending = rest ∧
      t.crc = checksum (evs.filterMap fun ev => ev.fedByte s.params) ∧
      [(t.readReg .crc).extractLsb' 0 8, (t.readReg .crc).extractLsb' 8 8] =
        crcBytes (checksum (evs.filterMap fun ev => ev.fedByte s.params))

/-! ## The value codec -/

/-- 42_codec.md R121: ENC_BYTE's effect, whole, and which of the words with its opcode run it. -/
def Obligations.EncByteStoresTheByteOrFails : Prop :=
  (∀ s : State,
    (0 ≤ s.arg0.toInt ∧ s.arg0.toInt ≤ 255 →
      exec .encByte s = .next { s.ended with res0 := (BitVec.ofInt 8 s.arg0.toInt).setWidth 32 }) ∧
    (¬(0 ≤ s.arg0.toInt ∧ s.arg0.toInt ≤ 255) → exec .encByte s = .next (s.failed 1))) ∧
  (∀ (s : State) (w : Word) (rest : List HostEvent),
    s.pending = .memWrite s.params.base 4 w :: rest → w.extractLsb' 0 8 = 0x10 →
    step s = if w = 0x00000010 then exec .encByte (s.holding w rest) else .next (s.rejecting w rest))

/-- 42_codec.md R128 with R122 to R127 read in ℚ: ENC_SHORT's effect for every operand and both values of SCALE_ARITH, whole,
and which of the words with its opcode run it. -/
def Obligations.EncShortStoresTheScaledIntegerOrFails : Prop :=
  (∀ (s : State) (bo : ByteOrder) (sg : Signedness) (dec : Nat),
    (b64Rat (s.arg1 ++ s.arg0) = none → exec (.encShort bo sg dec) s = .next (s.failed 1)) ∧
    (∀ v, b64Rat (s.arg1 ++ s.arg0) = some v → ∃ S, ScaledTo s.params.scaleArith v dec S ∧
      (∀ n, S = some n → ShortRange sg n →
        exec (.encShort bo sg dec) s = .next { s.ended with res0 := (match bo with
          | .big => 0#16 ++ (BitVec.ofInt 16 n).extractLsb' 0 8 ++ (BitVec.ofInt 16 n).extractLsb' 8 8
          | .little => 0#16 ++ (BitVec.ofInt 16 n).extractLsb' 8 8 ++ (BitVec.ofInt 16 n).extractLsb' 0 8) }) ∧
      (∀ n, S = some n → ¬ShortRange sg n → exec (.encShort bo sg dec) s = .next (s.failed 1)) ∧
      (S = none → exec (.encShort bo sg dec) s = .next (s.failed 1)))) ∧
  (∀ (s : State) (w : Word) (rest : List HostEvent),
    s.pending = .memWrite s.params.base 4 w :: rest → w.extractLsb' 0 8 = 0x11 →
    step s = if w.extractLsb' 16 16 = 0 ∧ w.getLsbD 11 = false ∧ w.getLsbD 9 = false then
        exec (.encShort (if w.getLsbD 8 then .little else .big) (if w.getLsbD 10 then .signed else .unsigned)
          (w.extractLsb' 12 4).toNat) (s.holding w rest)
      else .next (s.rejecting w rest))

/-- 42_codec.md R130: DEC_SHORT's effect, whole, its two bytes the low two of ARG0, and which of the words with its opcode run
it. -/
def Obligations.DecShortStoresTheIntegerOrFails : Prop :=
  (∀ (s : State) (bo : ByteOrder) (sg : Signedness) (dec : Nat),
    exec (.decShort bo sg dec 2) s = .next { s.ended with
      res0 := (match bo, sg with
        | .big, .unsigned => (s.arg0.extractLsb' 0 8 ++ s.arg0.extractLsb' 8 8).setWidth 32
        | .big, .signed => (s.arg0.extractLsb' 0 8 ++ s.arg0.extractLsb' 8 8).signExtend 32
        | .little, .unsigned => (s.arg0.extractLsb' 0 16).setWidth 32
        | .little, .signed => (s.arg0.extractLsb' 0 16).signExtend 32)
      res1 := BitVec.ofNat 32 (dec % 16) }) ∧
  (∀ (s : State) (bo : ByteOrder) (sg : Signedness) (dec cnt : Nat), cnt ≠ 2 →
    exec (.decShort bo sg dec cnt) s = .next (s.failed 2)) ∧
  (∀ (s : State) (w : Word) (rest : List HostEvent),
    s.pending = .memWrite s.params.base 4 w :: rest → w.extractLsb' 0 8 = 0x12 →
    step s = if w.extractLsb' 19 13 = 0 ∧ w.getLsbD 11 = false ∧ w.getLsbD 9 = false then
        exec (.decShort (if w.getLsbD 8 then .little else .big) (if w.getLsbD 10 then .signed else .unsigned)
          (w.extractLsb' 12 4).toNat (w.extractLsb' 16 3).toNat) (s.holding w rest)
      else .next (s.rejecting w rest))

/-- 42_codec.md R141 and R142: DEC_F32's effect, whole, the four orders by bytes (register 0 is `{A, B}`, register 1 is
`{C, D}`), and which of the words with its opcode run it. -/
def Obligations.DecF32AssemblesTheFourOrders : Prop :=
  (∀ (s : State) (A B C D : Byte), s.arg0 = C ++ D ++ A ++ B →
    exec (.decF32 .big .big 2) s = .next { s.ended with res0 := A ++ B ++ C ++ D } ∧
    exec (.decF32 .big .little 2) s = .next { s.ended with res0 := C ++ D ++ A ++ B } ∧
    exec (.decF32 .little .big 2) s = .next { s.ended with res0 := B ++ A ++ D ++ C } ∧
    exec (.decF32 .little .little 2) s = .next { s.ended with res0 := D ++ C ++ B ++ A }) ∧
  (∀ (s : State) (bo : ByteOrder) (wo : WordOrder) (cnt : Nat), cnt ≠ 2 →
    exec (.decF32 bo wo cnt) s = .next (s.failed 2)) ∧
  (∀ (s : State) (w : Word) (rest : List HostEvent),
    s.pending = .memWrite s.params.base 4 w :: rest → w.extractLsb' 0 8 = 0x13 →
    step s = if w.extractLsb' 19 13 = 0 ∧ w.extractLsb' 10 6 = 0 then
        exec (.decF32 (if w.getLsbD 8 then .little else .big) (if w.getLsbD 9 then .little else .big)
          (w.extractLsb' 16 3).toNat) (s.holding w rest)
      else .next (s.rejecting w rest))

/-- 42_codec.md R132: what encodeShort packs, decodeShort gives back, in either mode; and an integer in range with no decimals
comes back exactly. -/
def Obligations.ShortRoundTripRecoversTheScaledInteger : Prop :=
  ∀ (mode : ScaleArith) (x : BitVec 64) (bo : ByteOrder) (sg : Signedness),
    (∀ (d : Nat) (bs : List Byte), encodeShort mode x d bo sg = .ok bs →
      ∃ v n, b64val x = .finite v ∧ scaled mode v d = some n ∧ decodeShort bs d bo sg = .ok (n, d)) ∧
    (∀ n : ℤ, b64Rat x = some (n : ℚ) → ShortRange sg n →
      ∃ bs, encodeShort mode x 0 bo sg = .ok bs ∧ decodeShort bs 0 bo sg = .ok (n, 0))

/-- 42_codec.md R125: the fraction the model computes with is the value R125 gives, and the other patterns are the infinities
(by sign) and NaN. -/
def Obligations.Binary64ValueIsTheRulesRational : Prop :=
  ∀ p : BitVec 64,
    (∀ v, b64Rat p = some v → ∃ q, b64val p = .finite q ∧ 0 < q.den ∧ q.toRat = v) ∧
    (p.extractLsb' 52 11 = 2047 → b64val p =
      if p.extractLsb' 0 52 ≠ 0 then .nan else if p.getLsbD 63 then .negInf else .posInf)

/-- 42_codec.md R127: rne64 is R127's function of a rational, whichever fraction stands for the rational. -/
def Obligations.RoundingToBinary64FollowsTheRule : Prop :=
  ∀ q : Ratio, 0 < q.den → RoundsTo q.toRat (rne64 q)

/-- 42_codec.md R143: the value of a decoded pattern. -/
def Obligations.Binary32ValueIsTheRulesRational : Prop :=
  ∀ p : Word,
    (∀ v, f32Rat p = some v → ∃ q, f32val p = .finite q ∧ 0 < q.den ∧ q.toRat = v) ∧
    (p.extractLsb' 23 8 = 255 → f32val p =
      if p.extractLsb' 0 23 ≠ 0 then .nan else if p.getLsbD 31 then .negInf else .posInf) ∧
    (f32val p = .nan → (f32NanIsQuiet p = true ↔ p.extractLsb' 22 1 = 1))

/-! ## Frames -/

/-- 43_frame.md R163: BUILD_RDREQ's effect, whole, byte by byte with the bitwise CRC of R101, and which of the words with its
opcode run it. -/
def Obligations.BuildRdreqComposesTheFrameOrFails : Prop :=
  (∀ (s : State) (a f : Byte) (st c : Half),
    s.arg0 = a.setWidth 32 → s.arg1 = f.setWidth 32 → s.arg2 = st.setWidth 32 → s.arg3 = c.setWidth 32 →
    ∀ k : Half, k = [a, f, st.extractLsb' 8 8, st.extractLsb' 0 8, c.extractLsb' 8 8, c.extractLsb' 0 8].foldl
        crcStepBitwise 0xFFFF →
    exec .buildRdreq s = .next { s.ended with
      frame0 := st.extractLsb' 0 8 ++ st.extractLsb' 8 8 ++ f ++ a
      frame1 := k.extractLsb' 8 8 ++ k.extractLsb' 0 8 ++ c.extractLsb' 0 8 ++ c.extractLsb' 8 8
      res0 := k.setWidth 32 }) ∧
  (∀ s : State, ¬(0 ≤ s.arg0.toInt ∧ s.arg0.toInt ≤ 255 ∧ 0 ≤ s.arg1.toInt ∧ s.arg1.toInt ≤ 255 ∧
      0 ≤ s.arg2.toInt ∧ s.arg2.toInt ≤ 65535 ∧ 0 ≤ s.arg3.toInt ∧ s.arg3.toInt ≤ 65535) →
    exec .buildRdreq s = .next (s.failed 1)) ∧
  (∀ (s : State) (w : Word) (rest : List HostEvent),
    s.pending = .memWrite s.params.base 4 w :: rest → w.extractLsb' 0 8 = 0x20 →
    step s = if w = 0x00000020 then exec .buildRdreq (s.holding w rest) else .next (s.rejecting w rest))

/-- 43_frame.md R164: a built frame ends in the checksum of its first six bytes, and CRC_INIT with those six bytes streamed
gives the accumulator that same checksum. -/
def Obligations.StreamingAFrameGivesItsChecksum : Prop :=
  ∀ (s : State) (a f : Byte) (st c : Half) (rest : List HostEvent),
    s.arg0 = a.setWidth 32 → s.arg1 = f.setWidth 32 → s.arg2 = st.setWidth 32 → s.arg3 = c.setWidth 32 →
    s.pending = Line.buildRdreq.event s.params ::
      ((checksumLines [a, f, st.extractLsb' 8 8, st.extractLsb' 0 8, c.extractLsb' 8 8, c.extractLsb' 0 8]).map
        (Line.event s.params) ++ rest) →
    ∃ t, Host.Core.run core 8 s = .next t ∧ t.pending = rest ∧
      (List.range 6).map t.frameByte =
        [a, f, st.extractLsb' 8 8, st.extractLsb' 0 8, c.extractLsb' 8 8, c.extractLsb' 0 8] ∧
      t.frameByte 6 = t.crc.extractLsb' 0 8 ∧ t.frameByte 7 = t.crc.extractLsb' 8 8 ∧ t.res0 = t.crc.setWidth 32 ∧
      t.crc = checksum ((List.range 6).map t.frameByte)

/-- 43_frame.md R166: DEC_RDRESP's effect, whole, with the read error before the format error, and which of the words with its
opcode run it. -/
def Obligations.DecRdrespDecodesOrReportsNoValue : Prop :=
  (∀ s : State, exec (.decRdresp 2) s = .next { s.ended with res0 := s.arg0.extractLsb' 16 16 ++ s.arg0.extractLsb' 0 16 }) ∧
  (∀ s : State, exec (.decRdresp 0) s = .next (s.failed 3)) ∧
  (∀ (s : State) (cnt : Nat), cnt ≠ 0 → cnt ≠ 2 → exec (.decRdresp cnt) s = .next (s.failed 2)) ∧
  (∀ (s : State) (w : Word) (rest : List HostEvent),
    s.pending = .memWrite s.params.base 4 w :: rest → w.extractLsb' 0 8 = 0x21 →
    step s = if w.extractLsb' 19 13 = 0 ∧ w.extractLsb' 8 8 = 0 then
        exec (.decRdresp (w.extractLsb' 16 3).toNat) (s.holding w rest)
      else .next (s.rejecting w rest))

/-! ## Every command -/

/-- Sections 1 and 2 of 60_exceptions.md: every command, on every state and every operand, ends in a next state, with a code
that R181 gives it. -/
def Obligations.EveryCommandEndsWithAListedCode : Prop :=
  ∀ (i : Instr) (s : State), ∃ t, exec i s = .next t ∧ mayEndWith i t.status.err = true

/-- The frame of every command (10_state.md sections 3, 4 and 6): the operands, CMD, LASTOP, the parameters and the run's lists
are unchanged by all eight; CRC by all but CRC_INIT and CRC_BYTE; FRAME by all but BUILD_RDREQ; RES1 by all but DEC_SHORT; RES0 by
CRC_INIT and CRC_BYTE. Read through the window, no ARG register changes. -/
def Obligations.CommandsWriteOnlyTheirRegisters : Prop :=
  ∀ (i : Instr) (s t : State), exec i s = .next t →
    (∀ n, t.readReg (.arg n) = s.readReg (.arg n)) ∧ t.cmd = s.cmd ∧ t.status.lastOp = s.status.lastOp ∧
    t.params = s.params ∧ t.pending = s.pending ∧ t.returned = s.returned ∧
    (i ≠ .crcInit → (∀ b, i ≠ .crcByte b) → t.crc = s.crc) ∧
    (i ≠ .buildRdreq → t.frame0 = s.frame0 ∧ t.frame1 = s.frame1) ∧
    ((∀ bo sg dec cnt, i ≠ .decShort bo sg dec cnt) → t.res1 = s.res1) ∧
    (i = .crcInit ∨ (∃ b, i = .crcByte b) → t.res0 = s.res0)

/-- 60_exceptions.md R184: a command that ends with an error, an illegal word among them, changes no register but STATUS (and,
for the word as a whole, CMD). -/
def Obligations.FailedCommandsWriteNoResult : Prop :=
  (∀ (i : Instr) (s t : State), exec i s = .next t → t.status.err ≠ 0 → t = s.failed t.status.err) ∧
  (∀ (s t : State) (w : Word) (rest : List HostEvent), s.pending = .memWrite s.params.base 4 w :: rest →
    step s = .next t → t.status.err ≠ 0 → t = (s.holding w rest).failed t.status.err)

/-- 10_state.md R39: what a command does to everything but STATUS, and the error it ends with, are the same whatever STATUS
held. -/
def Obligations.CommandsIgnoreEarlierStatus : Prop :=
  ∀ (i : Instr) (s : State) (st : Status), ∃ t u, exec i s = .next t ∧ exec i (s.withStatus st) = .next u ∧
    u.withStatus s.status = t.withStatus s.status ∧ u.status.err = t.status.err

/-- 20_memory.md section 2 (R60): a second run of a command with unchanged operands changes nothing, except that CRC_BYTE steps
the accumulator again. -/
def Obligations.SecondRunRepeatsTheResult : Prop :=
  (∀ (i : Instr) (s t : State), (∀ b, i ≠ .crcByte b) → exec i s = .next t → exec i t = .next t) ∧
  (∀ (b : Byte) (s : State), ∃ t u, exec (.crcByte b) s = .next t ∧ exec (.crcByte b) t = .next u ∧
    u.crc = crcStepBitwise (crcStepBitwise s.crc b) b)

/-! ## Steps -/

/-- 20_memory.md R59 in the model's own step: a CMD write receives the word, then runs the command it decodes to, or ends with
IllegalCommand; and a word placed by withFetchWord is the very next CMD write. -/
def Obligations.StepRunsTheDecodedCommand : Prop :=
  (∀ (s : State) (w : Word) (rest : List HostEvent), s.pending = .memWrite s.params.base 4 w :: rest →
    (∀ i, decode w = .ok i → step s = exec i (s.holding w rest)) ∧
    (∀ why, decode w = .error why → step s = .next (s.rejecting w rest))) ∧
  (∀ (s : State) (w : Word) (i : Instr), decode w = .ok i →
    step (s.withFetchWord 32 w.toNat) = exec i (s.holding w s.pending))

/-- 20_memory.md R52: every readable offset returns its register and changes no register; any other is refused, a reserved one
as such. -/
def Obligations.ReadsReturnTheRegister : Prop :=
  ∀ (s : State) (off : Nat) (rest : List HostEvent), s.pending = .memRead (s.params.base + off) 4 :: rest →
    (∀ v, (off, v) ∈ [(0x00, s.cmd), (0x04, s.status.toWord), (0x08, 0#16 ++ s.crc), (0x10, s.arg0), (0x14, s.arg1),
        (0x18, s.arg2), (0x1C, s.arg3), (0x20, s.res0), (0x24, s.res1), (0x28, s.frame0), (0x2C, s.frame1)] →
      step s = .next { s with pending := rest, returned := s.returned ++ [v] }) ∧
    (off ∈ [0x0C, 0x30, 0x34, 0x38, 0x3C] → step s = .refused .reservedOffset) ∧
    (off ∉ [0x00, 0x04, 0x08, 0x10, 0x14, 0x18, 0x1C, 0x20, 0x24, 0x28, 0x2C] → ∃ why, step s = .refused why)

/-- 10_state.md R24 and R28: STATUS reads as its fields with every other bit 0, in every state, and no host write to it has a
step. -/
def Obligations.StatusReadsAsItsFields : Prop :=
  (∀ s : State, (s.readReg .status).extractLsb' 0 4 = s.status.err ∧ (s.readReg .status).extractLsb' 4 3 = 0 ∧
    (s.readReg .status).getLsbD 7 = s.status.errSeen ∧ (s.readReg .status).extractLsb' 8 8 = s.status.lastOp ∧
    (s.readReg .status).extractLsb' 16 16 = 0) ∧
  (∀ (s : State) (v : Word) (rest : List HostEvent), s.pending = .memWrite (s.params.base + 0x04) 4 v :: rest →
    step s = .refused .readOnlyRegister)

/-- 20_memory.md R53: a write of ARGn sets it and changes nothing else; a write at offset 0 runs the word; any other is
refused. -/
def Obligations.WritesStoreOperandsOrRunCommands : Prop :=
  ∀ (s : State) (off : Nat) (v : Word) (rest : List HostEvent), s.pending = .memWrite (s.params.base + off) 4 v :: rest →
    (off = 0x10 → step s = .next { s with pending := rest, arg0 := v }) ∧
    (off = 0x14 → step s = .next { s with pending := rest, arg1 := v }) ∧
    (off = 0x18 → step s = .next { s with pending := rest, arg2 := v }) ∧
    (off = 0x1C → step s = .next { s with pending := rest, arg3 := v }) ∧
    (off = 0x00 → step s = runCommand v { s with pending := rest }) ∧
    (off ∉ [0x00, 0x10, 0x14, 0x18, 0x1C] → ∃ why, step s = .refused why)

/-- 20_memory.md R54 to R57: a transaction of another width, at a misaligned offset, at a reserved offset, or a write to a
read-only register is refused. The names of the reasons, and that the width is named first whatever else is wrong, are the
model's choice (log entry 6). -/
def Obligations.MeaninglessTransactionsAreRefused : Prop :=
  ∀ (s : State) (addr size off : Nat) (v : Word) (rest : List HostEvent),
    (size ≠ 4 → s.pending = .memRead addr size :: rest ∨ s.pending = .memWrite addr size v :: rest →
      step s = .refused .accessWidth) ∧
    (off < 0x40 → off % 4 ≠ 0 →
      s.pending = .memRead (s.params.base + off) 4 :: rest ∨ s.pending = .memWrite (s.params.base + off) 4 v :: rest →
      step s = .refused .misaligned) ∧
    (off ∈ [0x0C, 0x30, 0x34, 0x38, 0x3C] →
      s.pending = .memRead (s.params.base + off) 4 :: rest ∨ s.pending = .memWrite (s.params.base + off) 4 v :: rest →
      step s = .refused .reservedOffset) ∧
    (off ∈ [0x04, 0x08, 0x20, 0x24, 0x28, 0x2C] → s.pending = .memWrite (s.params.base + off) 4 v :: rest →
      step s = .refused .readOnlyRegister)

/-- 70_reset_and_hazards.md sections 1 and 5 (R200, R201): a reset event sets every register, from every state, and leaves the
platform's parameters and the run's lists alone. -/
def Obligations.ResetEventSetsEveryRegister : Prop :=
  ∀ (s : State) (rest : List HostEvent), s.pending = .reset :: rest →
    step s = .next { cmd := 0, status := ⟨0, false, 0⟩, crc := 0xFFFF, arg0 := 0, arg1 := 0, arg2 := 0, arg3 := 0, res0 := 0,
                     res1 := 0, frame0 := 0, frame1 := 0, params := s.params, pending := rest, returned := s.returned }

/-- 70_reset_and_hazards.md section 5 (R211): the next event has a step exactly when it is legal, and the step takes that event
and no other off the list; with nothing pending the state stays (the model's choice, log entry 1). -/
def Obligations.LegalEventsHaveAStep : Prop :=
  (∀ (s : State) (ev : HostEvent) (rest : List HostEvent), s.pending = ev :: rest →
    (ev.legal s.params = true → ∃ t, step s = .next t ∧ t.pending = rest ∧ t.params = s.params) ∧
    (ev.legal s.params = false → ∃ why, step s = .refused why)) ∧
  (∀ s : State, s.pending = [] → step s = .next s)

/-- 70_reset_and_hazards.md section 5 (R211): "MBCORE never halts and never hangs": a run of legal events reaches its end, with
nothing of it left in flight. -/
def Obligations.LegalRunsReachTheirEnd : Prop :=
  ∀ (s : State) (evs rest : List HostEvent), s.pending = evs ++ rest → (∀ ev ∈ evs, ev.legal s.params = true) →
    ∃ t, Host.Core.run core evs.length s = .next t ∧ t.pending = rest ∧ t.params = s.params

/-- 20_memory.md R58: taking the reads out of a run of legal events changes nothing in the state it ends in but what the host
was given. -/
def Obligations.ReadsCanBeDroppedFromARun : Prop :=
  ∀ (s : State) (evs kept : List HostEvent), s.pending = evs → (∀ ev ∈ evs, ev.legal s.params = true) →
    kept = evs.filter (fun ev => match ev with
      | .memRead _ _ => false
      | _ => true) →
    ∃ t u, Host.Core.run core evs.length s = .next t ∧
      Host.Core.run core kept.length { s with pending := kept } = .next u ∧
      { t with returned := [] } = { u with returned := [] }

/-- 10_state.md R26: a command that ends with an error sets ERRSEEN, one that ends without leaves it, reads and operand writes
leave it, and reset alone clears it. -/
def Obligations.ErrorSeenIsClearedByResetOnly : Prop :=
  ∀ (s t : State) (ev : HostEvent) (rest : List HostEvent), s.pending = ev :: rest → step s = .next t →
    ((ev.commandWord s.params).isSome = true → t.status.errSeen = (s.status.errSeen || t.status.err != 0)) ∧
    ((ev.commandWord s.params).isSome = false → ev ≠ .reset → t.status = s.status) ∧
    (ev = .reset → t.status.errSeen = false)

/-! ## Invariants -/

/-- 10_state.md section 9 and 43_frame.md section 1: the state after reset meets the invariant. -/
def Obligations.ResetStateMeetsTheInvariant : Prop := State.reset.Inv

/-- 10_state.md section 2 and 60_exceptions.md section 1: from every state in which STATUS agrees with CMD, every step leaves
them in agreement: LASTOP is CMD's opcode byte, an error is on ERRSEEN's record, ERR is a code R181 gives the word in CMD. -/
def Obligations.StepsKeepStatusCoherent : Prop :=
  ∀ s t : State, s.StatusCoherent → step s = .next t → t.StatusCoherent

/-- 43_frame.md section 1 and 10_state.md section 6: from every state whose FRAME registers are at reset or hold a frame that
ends in its own checksum, every step leaves them so. -/
def Obligations.StepsKeepFramesChecked : Prop :=
  ∀ s t : State, s.FrameChecked → step s = .next t → t.FrameChecked

/-- 10_state.md section 6 and 42_codec.md section 3: RES1 stays a decimals count. -/
def Obligations.StepsKeepRes1ADecimalsCount : Prop :=
  ∀ s t : State, s.Res1IsDecimals → step s = .next t → t.Res1IsDecimals
end

