-- ==== Sys2Proof/Laws/Crc.lean ====
section
/-! SUPPORT. The CRC engine's small lemmas: the table's size and first entry, and the checksum byte by byte. -/

namespace Sys2Proof.Machine

theorem crcTable_length : crcTable.length = 256 := by decide +kernel

/-- `T[0] = 0` (10_state.md R32). -/
@[simp] theorem tableEntry_zero : tableEntry 0#8 = 0#16 := by decide

@[simp] theorem checksum_nil : checksum [] = 0xFFFF := rfl

/-- One more byte is one more step (41_crc.md R103). -/
theorem checksum_append_singleton (bs : List Byte) (b : Byte) : checksum (bs ++ [b]) = crcStep (checksum bs) b := by
  simp [checksum]

theorem checksum_append (as bs : List Byte) : checksum (as ++ bs) = bs.foldl crcStep (checksum as) := by
  simp [checksum]

/-- A byte equal to the accumulator's low byte finds entry 0: the step is a plain shift by eight. -/
theorem crcStep_lowByte (r : Half) : crcStep r (r.extractLsb' 0 8) = r >>> 8 := by
  have h : ((r ^^^ (r.extractLsb' 0 8).setWidth 16) &&& 0x00FF).setWidth 8 = 0#8 := by
    ext i hi
    simp [BitVec.getElem_extractLsb']
  unfold crcStep
  rw [h, tableEntry_zero, BitVec.xor_zero]

@[simp] theorem repeatTimes_zero {α : Type} (f : α → α) (a : α) : repeatTimes f 0 a = a := rfl
@[simp] theorem repeatTimes_succ {α : Type} (f : α → α) (n : Nat) (a : α) :
    repeatTimes f (n + 1) a = repeatTimes f n (f a) := rfl

/-- A round is linear over XOR (41_crc.md R102). -/
theorem crcRound_xor (x y : Half) : crcRound (x ^^^ y) = crcRound x ^^^ crcRound y := by
  have hlow : (x ^^^ y).getLsbD 0 = (x.getLsbD 0 != y.getLsbD 0) := BitVec.getLsbD_xor
  unfold crcRound
  rw [hlow, BitVec.ushiftRight_xor_distrib]
  generalize x >>> 1 = a
  generalize y >>> 1 = b
  cases x.getLsbD 0 <;> cases y.getLsbD 0 <;> ext i hi <;> simp <;> cases a[i] <;> cases b[i] <;> simp

end Sys2Proof.Machine
end

