-- ==== Sys2Proof/Laws/Decode.lean ====
section
/-! SUPPORT. The decoder and the encoder by their fields: what each field of an encoded word holds, each row of the opcode table
read field by field, and decode as a chain of rows. -/

namespace Sys2Proof

theorem toNat_append_add {n m : Nat} (x : BitVec n) (y : BitVec m) :
    (x ++ y).toNat = x.toNat * 2 ^ m + y.toNat := by
  rw [BitVec.toNat_append, ← Nat.shiftLeft_add_eq_or_of_lt y.isLt, Nat.shiftLeft_eq]

/-! ## Fields of an encoded word (30_encoding.md R70) -/

section Fields
variable (imm8 : BitVec 8) (cnt : BitVec 3) (dec : BitVec 4) (sg wo bo : BitVec 1) (op : BitVec 8)

theorem commandWord_toNat : (commandWord imm8 cnt dec sg wo bo op).toNat =
    op.toNat + 2 ^ 8 * bo.toNat + 2 ^ 9 * wo.toNat + 2 ^ 10 * sg.toNat + 2 ^ 12 * dec.toNat + 2 ^ 16 * cnt.toNat +
      2 ^ 24 * imm8.toNat := by
  have h : (commandWord imm8 cnt dec sg wo bo op).toNat =
      (imm8 ++ 0#5 ++ cnt ++ dec ++ 0#1 ++ sg ++ wo ++ bo ++ op).toNat := rfl
  rw [h]
  simp only [toNat_append_add]
  simp
  omega

@[simp] theorem fieldOP_commandWord : fieldOP (commandWord imm8 cnt dec sg wo bo op) = op := by
  apply BitVec.eq_of_toNat_eq
  simp [fieldOP, commandWord_toNat, Nat.shiftRight_eq_div_pow]
  omega

@[simp] theorem fieldBO_commandWord : fieldBO (commandWord imm8 cnt dec sg wo bo op) = bo := by
  apply BitVec.eq_of_toNat_eq
  simp [fieldBO, commandWord_toNat, Nat.shiftRight_eq_div_pow]
  omega

@[simp] theorem fieldWO_commandWord : fieldWO (commandWord imm8 cnt dec sg wo bo op) = wo := by
  apply BitVec.eq_of_toNat_eq
  simp [fieldWO, commandWord_toNat, Nat.shiftRight_eq_div_pow]
  omega

@[simp] theorem fieldSG_commandWord : fieldSG (commandWord imm8 cnt dec sg wo bo op) = sg := by
  apply BitVec.eq_of_toNat_eq
  simp [fieldSG, commandWord_toNat, Nat.shiftRight_eq_div_pow]
  omega

@[simp] theorem fieldDEC_commandWord : fieldDEC (commandWord imm8 cnt dec sg wo bo op) = dec := by
  apply BitVec.eq_of_toNat_eq
  simp [fieldDEC, commandWord_toNat, Nat.shiftRight_eq_div_pow]
  omega

@[simp] theorem fieldCNT_commandWord : fieldCNT (commandWord imm8 cnt dec sg wo bo op) = cnt := by
  apply BitVec.eq_of_toNat_eq
  simp [fieldCNT, commandWord_toNat, Nat.shiftRight_eq_div_pow]
  omega

@[simp] theorem fieldIMM8_commandWord : fieldIMM8 (commandWord imm8 cnt dec sg wo bo op) = imm8 := by
  apply BitVec.eq_of_toNat_eq
  simp [fieldIMM8, commandWord_toNat, Nat.shiftRight_eq_div_pow]
  omega

theorem commandWord_reserved11 : (commandWord imm8 cnt dec sg wo bo op).extractLsb' 11 1 = 0 := by
  apply BitVec.eq_of_toNat_eq
  simp [commandWord_toNat, Nat.shiftRight_eq_div_pow]
  omega

theorem commandWord_reserved19 : (commandWord imm8 cnt dec sg wo bo op).extractLsb' 19 5 = 0 := by
  apply BitVec.eq_of_toNat_eq
  simp [commandWord_toNat, Nat.shiftRight_eq_div_pow]
  omega
end Fields

/-! ## Field values and the types they are turned into -/

@[simp] theorem byteOrderOf_bitOf (bo : ByteOrder) : byteOrderOf (bitOfByteOrder bo) = bo := by cases bo <;> rfl
@[simp] theorem wordOrderOf_bitOf (wo : WordOrder) : wordOrderOf (bitOfWordOrder wo) = wo := by cases wo <;> rfl
@[simp] theorem signednessOf_bitOf (sg : Signedness) : signednessOf (bitOfSignedness sg) = sg := by cases sg <;> rfl

theorem byteOrderOf_eq (w : Word) : byteOrderOf (fieldBO w) = if w.getLsbD 8 then .little else .big := by
  have h : fieldBO w = if w.getLsbD 8 then 1 else 0 := by
    ext i hi; obtain rfl : i = 0 := by omega
    cases h8 : w.getLsbD 8 <;> simp_all [fieldBO]
  rw [h]; split <;> rfl

theorem wordOrderOf_eq (w : Word) : wordOrderOf (fieldWO w) = if w.getLsbD 9 then .little else .big := by
  have h : fieldWO w = if w.getLsbD 9 then 1 else 0 := by
    ext i hi; obtain rfl : i = 0 := by omega
    cases h9 : w.getLsbD 9 <;> simp_all [fieldWO]
  rw [h]; split <;> rfl

theorem signednessOf_eq (w : Word) : signednessOf (fieldSG w) = if w.getLsbD 10 then .signed else .unsigned := by
  have h : fieldSG w = if w.getLsbD 10 then 1 else 0 := by
    ext i hi; obtain rfl : i = 0 := by omega
    cases h10 : w.getLsbD 10 <;> simp_all [fieldSG]
  rw [h]; split <;> rfl

/-! ## The rows of the table, field by field (R79) -/

section Rows
variable (w : Word)

theorem row_whole (p : Word) : w &&& 0xFFFFFFFF = p ↔ w = p := by
  have h : (0xFFFFFFFF : Word) = BitVec.allOnes 32 := by decide
  rw [h, BitVec.and_allOnes]

theorem row_crcByte : w &&& 0x00FFFFFF = 0x00000002 ↔
    w.extractLsb' 0 8 = 0x02 ∧ w.extractLsb' 8 16 = 0 := by
  simp only [BitVec.eq_of_getLsbD_eq_iff, Nat.forall_lt_succ_right, BitVec.getLsbD_and, BitVec.getLsbD_extractLsb']
  simp
  tauto

theorem row_encShort : w &&& 0xFFFF0AFF = 0x00000011 ↔
    w.extractLsb' 0 8 = 0x11 ∧ w.extractLsb' 16 16 = 0 ∧ w.getLsbD 11 = false ∧ w.getLsbD 9 = false := by
  simp only [BitVec.eq_of_getLsbD_eq_iff, Nat.forall_lt_succ_right, BitVec.getLsbD_and, BitVec.getLsbD_extractLsb']
  simp
  tauto

theorem row_decShort : w &&& 0xFFF80AFF = 0x00000012 ↔
    w.extractLsb' 0 8 = 0x12 ∧ w.extractLsb' 19 13 = 0 ∧ w.getLsbD 11 = false ∧ w.getLsbD 9 = false := by
  simp only [BitVec.eq_of_getLsbD_eq_iff, Nat.forall_lt_succ_right, BitVec.getLsbD_and, BitVec.getLsbD_extractLsb']
  simp
  tauto

theorem row_decF32 : w &&& 0xFFF8FCFF = 0x00000013 ↔
    w.extractLsb' 0 8 = 0x13 ∧ w.extractLsb' 19 13 = 0 ∧ w.extractLsb' 10 6 = 0 := by
  simp only [BitVec.eq_of_getLsbD_eq_iff, Nat.forall_lt_succ_right, BitVec.getLsbD_and, BitVec.getLsbD_extractLsb']
  simp
  tauto

theorem row_decRdresp : w &&& 0xFFF8FFFF = 0x00000021 ↔
    w.extractLsb' 0 8 = 0x21 ∧ w.extractLsb' 19 13 = 0 ∧ w.extractLsb' 8 8 = 0 := by
  simp only [BitVec.eq_of_getLsbD_eq_iff, Nat.forall_lt_succ_right, BitVec.getLsbD_and, BitVec.getLsbD_extractLsb']
  simp
  tauto

end Rows

/-- The decoder over a list of rows tries its first row first. -/
theorem decodeRows_cons (r : OpRow) (rs : List OpRow) (w : Word) :
    (match (r :: rs).find? (·.admits w) with
      | some r => Except.ok (r.build w)
      | none => Except.error (illegalReason w)) =
    if w &&& r.mask = r.pattern then Except.ok (r.build w)
    else (match rs.find? (·.admits w) with
      | some r => Except.ok (r.build w)
      | none => Except.error (illegalReason w)) := by
  by_cases h : w &&& r.mask = r.pattern <;> simp [OpRow.admits, h]

/-- decode as the chain of its rows. -/
theorem decode_eq_chain (w : Word) : decode w =
    if w &&& 0xFFFFFFFF = 0x00000001 then .ok .crcInit
    else if w &&& 0x00FFFFFF = 0x00000002 then .ok (.crcByte (fieldIMM8 w))
    else if w &&& 0xFFFFFFFF = 0x00000010 then .ok .encByte
    else if w &&& 0xFFFF0AFF = 0x00000011 then
      .ok (.encShort (byteOrderOf (fieldBO w)) (signednessOf (fieldSG w)) (fieldDEC w).toNat)
    else if w &&& 0xFFF80AFF = 0x00000012 then
      .ok (.decShort (byteOrderOf (fieldBO w)) (signednessOf (fieldSG w)) (fieldDEC w).toNat (fieldCNT w).toNat)
    else if w &&& 0xFFF8FCFF = 0x00000013 then
      .ok (.decF32 (byteOrderOf (fieldBO w)) (wordOrderOf (fieldWO w)) (fieldCNT w).toNat)
    else if w &&& 0xFFFFFFFF = 0x00000020 then .ok .buildRdreq
    else if w &&& 0xFFF8FFFF = 0x00000021 then .ok (.decRdresp (fieldCNT w).toNat)
    else .error (illegalReason w) := by
  unfold decode opTable
  iterate 8 refine (decodeRows_cons _ _ w).trans (if_congr Iff.rfl rfl ?_)
  rfl

/-- decode by the fields of the word: each row's opcode, and the fields it wants at 0. -/
theorem decode_by_fields (w : Word) : decode w =
    if w = 0x01#32 then .ok .crcInit
    else if w.extractLsb' 0 8 = 0x02#8 ∧ w.extractLsb' 8 16 = 0#16 then .ok (.crcByte (fieldIMM8 w))
    else if w = 0x10#32 then .ok .encByte
    else if w.extractLsb' 0 8 = 0x11#8 ∧ w.extractLsb' 16 16 = 0#16 ∧ w.getLsbD 11 = false ∧ w.getLsbD 9 = false then
      .ok (.encShort (byteOrderOf (fieldBO w)) (signednessOf (fieldSG w)) (fieldDEC w).toNat)
    else if w.extractLsb' 0 8 = 0x12#8 ∧ w.extractLsb' 19 13 = 0#13 ∧ w.getLsbD 11 = false ∧ w.getLsbD 9 = false then
      .ok (.decShort (byteOrderOf (fieldBO w)) (signednessOf (fieldSG w)) (fieldDEC w).toNat (fieldCNT w).toNat)
    else if w.extractLsb' 0 8 = 0x13#8 ∧ w.extractLsb' 19 13 = 0#13 ∧ w.extractLsb' 10 6 = 0#6 then
      .ok (.decF32 (byteOrderOf (fieldBO w)) (wordOrderOf (fieldWO w)) (fieldCNT w).toNat)
    else if w = 0x20#32 then .ok .buildRdreq
    else if w.extractLsb' 0 8 = 0x21#8 ∧ w.extractLsb' 19 13 = 0#13 ∧ w.extractLsb' 8 8 = 0#8 then
      .ok (.decRdresp (fieldCNT w).toNat)
    else .error (illegalReason w) := by
  rw [decode_eq_chain]
  simp only [row_whole, row_crcByte, row_encShort, row_decShort, row_decF32, row_decRdresp]
  rfl

end Sys2Proof
end

