-- ==== Sys2Proof/Laws/State.lean ====
section
/-! SUPPORT. One lemma per field per update of State and of STATUS, each true by rfl: later proofs cite these and unfold no
record update. -/

namespace Sys2Proof.Machine

/-! ## STATUS -/

@[simp] theorem Status.received_err (st : Status) (op : BitVec 8) : (Status.received op st).err = st.err := rfl
@[simp] theorem Status.received_errSeen (st : Status) (op : BitVec 8) : (Status.received op st).errSeen = st.errSeen := rfl
@[simp] theorem Status.received_lastOp (st : Status) (op : BitVec 8) : (Status.received op st).lastOp = op := rfl
@[simp] theorem Status.completed_err (st : Status) : (st.completed).err = 0 := rfl
@[simp] theorem Status.completed_errSeen (st : Status) : (st.completed).errSeen = st.errSeen := rfl
@[simp] theorem Status.completed_lastOp (st : Status) : (st.completed).lastOp = st.lastOp := rfl
@[simp] theorem Status.raised_err (st : Status) (e : ErrorKind) : (Status.raised e st).err = e.code := rfl
@[simp] theorem Status.raised_errSeen (st : Status) (e : ErrorKind) : (Status.raised e st).errSeen = true := rfl
@[simp] theorem Status.raised_lastOp (st : Status) (e : ErrorKind) : (Status.raised e st).lastOp = st.lastOp := rfl

/-! ## State.setCrc -/

@[simp] theorem State.setCrc_cmd (s : State) (v : Half) : (s.setCrc v).cmd = s.cmd := rfl
@[simp] theorem State.setCrc_status (s : State) (v : Half) : (s.setCrc v).status = s.status := rfl
@[simp] theorem State.setCrc_crc (s : State) (v : Half) : (s.setCrc v).crc = v := rfl
@[simp] theorem State.setCrc_arg0 (s : State) (v : Half) : (s.setCrc v).arg0 = s.arg0 := rfl
@[simp] theorem State.setCrc_arg1 (s : State) (v : Half) : (s.setCrc v).arg1 = s.arg1 := rfl
@[simp] theorem State.setCrc_arg2 (s : State) (v : Half) : (s.setCrc v).arg2 = s.arg2 := rfl
@[simp] theorem State.setCrc_arg3 (s : State) (v : Half) : (s.setCrc v).arg3 = s.arg3 := rfl
@[simp] theorem State.setCrc_res0 (s : State) (v : Half) : (s.setCrc v).res0 = s.res0 := rfl
@[simp] theorem State.setCrc_res1 (s : State) (v : Half) : (s.setCrc v).res1 = s.res1 := rfl
@[simp] theorem State.setCrc_frame0 (s : State) (v : Half) : (s.setCrc v).frame0 = s.frame0 := rfl
@[simp] theorem State.setCrc_frame1 (s : State) (v : Half) : (s.setCrc v).frame1 = s.frame1 := rfl
@[simp] theorem State.setCrc_params (s : State) (v : Half) : (s.setCrc v).params = s.params := rfl
@[simp] theorem State.setCrc_pending (s : State) (v : Half) : (s.setCrc v).pending = s.pending := rfl
@[simp] theorem State.setCrc_returned (s : State) (v : Half) : (s.setCrc v).returned = s.returned := rfl

/-! ## State.setRes0 -/

@[simp] theorem State.setRes0_cmd (s : State) (v : Word) : (s.setRes0 v).cmd = s.cmd := rfl
@[simp] theorem State.setRes0_status (s : State) (v : Word) : (s.setRes0 v).status = s.status := rfl
@[simp] theorem State.setRes0_crc (s : State) (v : Word) : (s.setRes0 v).crc = s.crc := rfl
@[simp] theorem State.setRes0_arg0 (s : State) (v : Word) : (s.setRes0 v).arg0 = s.arg0 := rfl
@[simp] theorem State.setRes0_arg1 (s : State) (v : Word) : (s.setRes0 v).arg1 = s.arg1 := rfl
@[simp] theorem State.setRes0_arg2 (s : State) (v : Word) : (s.setRes0 v).arg2 = s.arg2 := rfl
@[simp] theorem State.setRes0_arg3 (s : State) (v : Word) : (s.setRes0 v).arg3 = s.arg3 := rfl
@[simp] theorem State.setRes0_res0 (s : State) (v : Word) : (s.setRes0 v).res0 = v := rfl
@[simp] theorem State.setRes0_res1 (s : State) (v : Word) : (s.setRes0 v).res1 = s.res1 := rfl
@[simp] theorem State.setRes0_frame0 (s : State) (v : Word) : (s.setRes0 v).frame0 = s.frame0 := rfl
@[simp] theorem State.setRes0_frame1 (s : State) (v : Word) : (s.setRes0 v).frame1 = s.frame1 := rfl
@[simp] theorem State.setRes0_params (s : State) (v : Word) : (s.setRes0 v).params = s.params := rfl
@[simp] theorem State.setRes0_pending (s : State) (v : Word) : (s.setRes0 v).pending = s.pending := rfl
@[simp] theorem State.setRes0_returned (s : State) (v : Word) : (s.setRes0 v).returned = s.returned := rfl

/-! ## State.setRes1 -/

@[simp] theorem State.setRes1_cmd (s : State) (v : Word) : (s.setRes1 v).cmd = s.cmd := rfl
@[simp] theorem State.setRes1_status (s : State) (v : Word) : (s.setRes1 v).status = s.status := rfl
@[simp] theorem State.setRes1_crc (s : State) (v : Word) : (s.setRes1 v).crc = s.crc := rfl
@[simp] theorem State.setRes1_arg0 (s : State) (v : Word) : (s.setRes1 v).arg0 = s.arg0 := rfl
@[simp] theorem State.setRes1_arg1 (s : State) (v : Word) : (s.setRes1 v).arg1 = s.arg1 := rfl
@[simp] theorem State.setRes1_arg2 (s : State) (v : Word) : (s.setRes1 v).arg2 = s.arg2 := rfl
@[simp] theorem State.setRes1_arg3 (s : State) (v : Word) : (s.setRes1 v).arg3 = s.arg3 := rfl
@[simp] theorem State.setRes1_res0 (s : State) (v : Word) : (s.setRes1 v).res0 = s.res0 := rfl
@[simp] theorem State.setRes1_res1 (s : State) (v : Word) : (s.setRes1 v).res1 = v := rfl
@[simp] theorem State.setRes1_frame0 (s : State) (v : Word) : (s.setRes1 v).frame0 = s.frame0 := rfl
@[simp] theorem State.setRes1_frame1 (s : State) (v : Word) : (s.setRes1 v).frame1 = s.frame1 := rfl
@[simp] theorem State.setRes1_params (s : State) (v : Word) : (s.setRes1 v).params = s.params := rfl
@[simp] theorem State.setRes1_pending (s : State) (v : Word) : (s.setRes1 v).pending = s.pending := rfl
@[simp] theorem State.setRes1_returned (s : State) (v : Word) : (s.setRes1 v).returned = s.returned := rfl

/-! ## State.setFrame -/

@[simp] theorem State.setFrame_cmd (s : State) (v w : Word) : (s.setFrame v w).cmd = s.cmd := rfl
@[simp] theorem State.setFrame_status (s : State) (v w : Word) : (s.setFrame v w).status = s.status := rfl
@[simp] theorem State.setFrame_crc (s : State) (v w : Word) : (s.setFrame v w).crc = s.crc := rfl
@[simp] theorem State.setFrame_arg0 (s : State) (v w : Word) : (s.setFrame v w).arg0 = s.arg0 := rfl
@[simp] theorem State.setFrame_arg1 (s : State) (v w : Word) : (s.setFrame v w).arg1 = s.arg1 := rfl
@[simp] theorem State.setFrame_arg2 (s : State) (v w : Word) : (s.setFrame v w).arg2 = s.arg2 := rfl
@[simp] theorem State.setFrame_arg3 (s : State) (v w : Word) : (s.setFrame v w).arg3 = s.arg3 := rfl
@[simp] theorem State.setFrame_res0 (s : State) (v w : Word) : (s.setFrame v w).res0 = s.res0 := rfl
@[simp] theorem State.setFrame_res1 (s : State) (v w : Word) : (s.setFrame v w).res1 = s.res1 := rfl
@[simp] theorem State.setFrame_frame0 (s : State) (v w : Word) : (s.setFrame v w).frame0 = v := rfl
@[simp] theorem State.setFrame_frame1 (s : State) (v w : Word) : (s.setFrame v w).frame1 = w := rfl
@[simp] theorem State.setFrame_params (s : State) (v w : Word) : (s.setFrame v w).params = s.params := rfl
@[simp] theorem State.setFrame_pending (s : State) (v w : Word) : (s.setFrame v w).pending = s.pending := rfl
@[simp] theorem State.setFrame_returned (s : State) (v w : Word) : (s.setFrame v w).returned = s.returned := rfl

/-! ## State.give -/

@[simp] theorem State.give_cmd (s : State) (v : Word) : (s.give v).cmd = s.cmd := rfl
@[simp] theorem State.give_status (s : State) (v : Word) : (s.give v).status = s.status := rfl
@[simp] theorem State.give_crc (s : State) (v : Word) : (s.give v).crc = s.crc := rfl
@[simp] theorem State.give_arg0 (s : State) (v : Word) : (s.give v).arg0 = s.arg0 := rfl
@[simp] theorem State.give_arg1 (s : State) (v : Word) : (s.give v).arg1 = s.arg1 := rfl
@[simp] theorem State.give_arg2 (s : State) (v : Word) : (s.give v).arg2 = s.arg2 := rfl
@[simp] theorem State.give_arg3 (s : State) (v : Word) : (s.give v).arg3 = s.arg3 := rfl
@[simp] theorem State.give_res0 (s : State) (v : Word) : (s.give v).res0 = s.res0 := rfl
@[simp] theorem State.give_res1 (s : State) (v : Word) : (s.give v).res1 = s.res1 := rfl
@[simp] theorem State.give_frame0 (s : State) (v : Word) : (s.give v).frame0 = s.frame0 := rfl
@[simp] theorem State.give_frame1 (s : State) (v : Word) : (s.give v).frame1 = s.frame1 := rfl
@[simp] theorem State.give_params (s : State) (v : Word) : (s.give v).params = s.params := rfl
@[simp] theorem State.give_pending (s : State) (v : Word) : (s.give v).pending = s.pending := rfl
@[simp] theorem State.give_returned (s : State) (v : Word) : (s.give v).returned = s.returned ++ [v] := rfl

/-! ## State.receive -/

@[simp] theorem State.receive_cmd (s : State) (w : Word) : (s.receive w).cmd = w := rfl
@[simp] theorem State.receive_status (s : State) (w : Word) : (s.receive w).status = s.status.received (w.extractLsb' 0 8) := rfl
@[simp] theorem State.receive_crc (s : State) (w : Word) : (s.receive w).crc = s.crc := rfl
@[simp] theorem State.receive_arg0 (s : State) (w : Word) : (s.receive w).arg0 = s.arg0 := rfl
@[simp] theorem State.receive_arg1 (s : State) (w : Word) : (s.receive w).arg1 = s.arg1 := rfl
@[simp] theorem State.receive_arg2 (s : State) (w : Word) : (s.receive w).arg2 = s.arg2 := rfl
@[simp] theorem State.receive_arg3 (s : State) (w : Word) : (s.receive w).arg3 = s.arg3 := rfl
@[simp] theorem State.receive_res0 (s : State) (w : Word) : (s.receive w).res0 = s.res0 := rfl
@[simp] theorem State.receive_res1 (s : State) (w : Word) : (s.receive w).res1 = s.res1 := rfl
@[simp] theorem State.receive_frame0 (s : State) (w : Word) : (s.receive w).frame0 = s.frame0 := rfl
@[simp] theorem State.receive_frame1 (s : State) (w : Word) : (s.receive w).frame1 = s.frame1 := rfl
@[simp] theorem State.receive_params (s : State) (w : Word) : (s.receive w).params = s.params := rfl
@[simp] theorem State.receive_pending (s : State) (w : Word) : (s.receive w).pending = s.pending := rfl
@[simp] theorem State.receive_returned (s : State) (w : Word) : (s.receive w).returned = s.returned := rfl

/-! ## State.complete -/

@[simp] theorem State.complete_cmd (s : State) : (s.complete).cmd = s.cmd := rfl
@[simp] theorem State.complete_status (s : State) : (s.complete).status = s.status.completed := rfl
@[simp] theorem State.complete_crc (s : State) : (s.complete).crc = s.crc := rfl
@[simp] theorem State.complete_arg0 (s : State) : (s.complete).arg0 = s.arg0 := rfl
@[simp] theorem State.complete_arg1 (s : State) : (s.complete).arg1 = s.arg1 := rfl
@[simp] theorem State.complete_arg2 (s : State) : (s.complete).arg2 = s.arg2 := rfl
@[simp] theorem State.complete_arg3 (s : State) : (s.complete).arg3 = s.arg3 := rfl
@[simp] theorem State.complete_res0 (s : State) : (s.complete).res0 = s.res0 := rfl
@[simp] theorem State.complete_res1 (s : State) : (s.complete).res1 = s.res1 := rfl
@[simp] theorem State.complete_frame0 (s : State) : (s.complete).frame0 = s.frame0 := rfl
@[simp] theorem State.complete_frame1 (s : State) : (s.complete).frame1 = s.frame1 := rfl
@[simp] theorem State.complete_params (s : State) : (s.complete).params = s.params := rfl
@[simp] theorem State.complete_pending (s : State) : (s.complete).pending = s.pending := rfl
@[simp] theorem State.complete_returned (s : State) : (s.complete).returned = s.returned := rfl

/-! ## State.raise -/

@[simp] theorem State.raise_cmd (s : State) (e : ErrorKind) : (s.raise e).cmd = s.cmd := rfl
@[simp] theorem State.raise_status (s : State) (e : ErrorKind) : (s.raise e).status = s.status.raised e := rfl
@[simp] theorem State.raise_crc (s : State) (e : ErrorKind) : (s.raise e).crc = s.crc := rfl
@[simp] theorem State.raise_arg0 (s : State) (e : ErrorKind) : (s.raise e).arg0 = s.arg0 := rfl
@[simp] theorem State.raise_arg1 (s : State) (e : ErrorKind) : (s.raise e).arg1 = s.arg1 := rfl
@[simp] theorem State.raise_arg2 (s : State) (e : ErrorKind) : (s.raise e).arg2 = s.arg2 := rfl
@[simp] theorem State.raise_arg3 (s : State) (e : ErrorKind) : (s.raise e).arg3 = s.arg3 := rfl
@[simp] theorem State.raise_res0 (s : State) (e : ErrorKind) : (s.raise e).res0 = s.res0 := rfl
@[simp] theorem State.raise_res1 (s : State) (e : ErrorKind) : (s.raise e).res1 = s.res1 := rfl
@[simp] theorem State.raise_frame0 (s : State) (e : ErrorKind) : (s.raise e).frame0 = s.frame0 := rfl
@[simp] theorem State.raise_frame1 (s : State) (e : ErrorKind) : (s.raise e).frame1 = s.frame1 := rfl
@[simp] theorem State.raise_params (s : State) (e : ErrorKind) : (s.raise e).params = s.params := rfl
@[simp] theorem State.raise_pending (s : State) (e : ErrorKind) : (s.raise e).pending = s.pending := rfl
@[simp] theorem State.raise_returned (s : State) (e : ErrorKind) : (s.raise e).returned = s.returned := rfl

/-! ## State.resetBlock -/

@[simp] theorem State.resetBlock_cmd (s : State) : s.resetBlock.cmd = 0 := rfl
@[simp] theorem State.resetBlock_status (s : State) : s.resetBlock.status = ⟨0, false, 0⟩ := rfl
@[simp] theorem State.resetBlock_crc (s : State) : s.resetBlock.crc = 0xFFFF := rfl
@[simp] theorem State.resetBlock_arg0 (s : State) : s.resetBlock.arg0 = 0 := rfl
@[simp] theorem State.resetBlock_arg1 (s : State) : s.resetBlock.arg1 = 0 := rfl
@[simp] theorem State.resetBlock_arg2 (s : State) : s.resetBlock.arg2 = 0 := rfl
@[simp] theorem State.resetBlock_arg3 (s : State) : s.resetBlock.arg3 = 0 := rfl
@[simp] theorem State.resetBlock_res0 (s : State) : s.resetBlock.res0 = 0 := rfl
@[simp] theorem State.resetBlock_res1 (s : State) : s.resetBlock.res1 = 0 := rfl
@[simp] theorem State.resetBlock_frame0 (s : State) : s.resetBlock.frame0 = 0 := rfl
@[simp] theorem State.resetBlock_frame1 (s : State) : s.resetBlock.frame1 = 0 := rfl
@[simp] theorem State.resetBlock_params (s : State) : s.resetBlock.params = s.params := rfl
@[simp] theorem State.resetBlock_pending (s : State) : s.resetBlock.pending = s.pending := rfl
@[simp] theorem State.resetBlock_returned (s : State) : s.resetBlock.returned = s.returned := rfl

/-! ## State.setArg -/

@[simp] theorem State.setArg_cmd (s : State) (n : Fin 4) (v : Word) : (s.setArg n v).cmd = s.cmd := by
  fin_cases n <;> rfl
@[simp] theorem State.setArg_status (s : State) (n : Fin 4) (v : Word) : (s.setArg n v).status = s.status := by
  fin_cases n <;> rfl
@[simp] theorem State.setArg_crc (s : State) (n : Fin 4) (v : Word) : (s.setArg n v).crc = s.crc := by
  fin_cases n <;> rfl
theorem State.setArg_arg0 (s : State) (n : Fin 4) (v : Word) : (s.setArg n v).arg0 = if n = 0 then v else s.arg0 := by
  fin_cases n <;> rfl
theorem State.setArg_arg1 (s : State) (n : Fin 4) (v : Word) : (s.setArg n v).arg1 = if n = 1 then v else s.arg1 := by
  fin_cases n <;> rfl
theorem State.setArg_arg2 (s : State) (n : Fin 4) (v : Word) : (s.setArg n v).arg2 = if n = 2 then v else s.arg2 := by
  fin_cases n <;> rfl
theorem State.setArg_arg3 (s : State) (n : Fin 4) (v : Word) : (s.setArg n v).arg3 = if n = 3 then v else s.arg3 := by
  fin_cases n <;> rfl
@[simp] theorem State.setArg_res0 (s : State) (n : Fin 4) (v : Word) : (s.setArg n v).res0 = s.res0 := by
  fin_cases n <;> rfl
@[simp] theorem State.setArg_res1 (s : State) (n : Fin 4) (v : Word) : (s.setArg n v).res1 = s.res1 := by
  fin_cases n <;> rfl
@[simp] theorem State.setArg_frame0 (s : State) (n : Fin 4) (v : Word) : (s.setArg n v).frame0 = s.frame0 := by
  fin_cases n <;> rfl
@[simp] theorem State.setArg_frame1 (s : State) (n : Fin 4) (v : Word) : (s.setArg n v).frame1 = s.frame1 := by
  fin_cases n <;> rfl
@[simp] theorem State.setArg_params (s : State) (n : Fin 4) (v : Word) : (s.setArg n v).params = s.params := by
  fin_cases n <;> rfl
@[simp] theorem State.setArg_pending (s : State) (n : Fin 4) (v : Word) : (s.setArg n v).pending = s.pending := by
  fin_cases n <;> rfl
@[simp] theorem State.setArg_returned (s : State) (n : Fin 4) (v : Word) : (s.setArg n v).returned = s.returned := by
  fin_cases n <;> rfl

/-- Reading an operand back gives what was written (10_state.md R30). -/
@[simp] theorem State.readReg_setArg_self (s : State) (n : Fin 4) (v : Word) :
    (s.setArg n v).readReg (.arg n) = v := by
  fin_cases n <;> rfl

/-- A write of one operand register leaves every other register as it was (20_memory.md R53). -/
theorem State.readReg_setArg_of_ne (s : State) (n : Fin 4) (v : Word) (r : Reg) (h : r ≠ .arg n) :
    (s.setArg n v).readReg r = s.readReg r := by
  cases r with
  | arg m =>
    have hm : m ≠ n := fun e => h (by rw [e])
    fin_cases n <;> fin_cases m <;> first | rfl | exact absurd rfl hm
  | cmd => simp [State.readReg]
  | status => simp [State.readReg]
  | crc => simp [State.readReg]
  | res m => fin_cases m <;> simp [State.readReg]
  | frame m => fin_cases m <;> simp [State.readReg]

end Sys2Proof.Machine
end

