-- ==== Sys2Proof/Laws/Ops.lean ====
section
/-! SUPPORT. What the shared operations can do, said once: how a command concludes, and what the register window answers. -/

namespace Sys2Proof.Machine

/-! ## How a command concludes -/

@[simp] theorem conclude_ok {α : Type} (s : State) (v : α) (write : State → α → State) :
    s.conclude (.ok v) write = (write s v).complete := rfl

@[simp] theorem conclude_error {α : Type} (s : State) (e : ErrorKind) (write : State → α → State) :
    s.conclude (.error e) write = s.raise e := rfl

/-- Whatever every write keeps, and STATUS does not hold, a command keeps. -/
theorem conclude_keeps {α β : Type} (get : State → β) (s : State) (r : Except ErrorKind α) (write : State → α → State)
    (hwrite : ∀ v, get (write s v) = get s) (hstatus : ∀ (t : State) (st : Status), get { t with status := st } = get t) :
    get (s.conclude r write) = get s := by
  cases r with
  | ok v => exact (hstatus _ _).trans (hwrite v)
  | error e => exact hstatus _ _

theorem ErrorKind.code_ne_zero (e : ErrorKind) : e.code ≠ 0 := by cases e <;> decide

/-! ## The register window -/

theorem Params.base_mod (p : Params) : p.base % 0x40 = 0 := Nat.mul_mod_right _ _

/-- A word access inside the window goes by its offset alone. -/
theorem locate_in_window (p : Params) (off : Nat) (hoff : off < 0x40) (halign : off % 4 = 0) :
    locate p (p.base + off) 4 = (match regAt off with
      | some r => .ok r
      | none => .error .reservedOffset) := by
  have h1 : ¬windowBytes ≤ off := by simp only [windowBytes]; omega
  cases h : regAt off <;> simp [locate, h1, halign, h]

/-- CMD is at the window's first offset (20_memory.md R51). -/
@[simp] theorem locate_cmd (p : Params) : locate p p.base 4 = .ok .cmd := by
  simpa [regAt] using locate_in_window p 0 (by decide) (by decide)

theorem locate_other_width (p : Params) (addr size : Nat) (h : size ≠ 4) : locate p addr size = .error .accessWidth := by
  simp [locate, h]

theorem locate_misaligned (p : Params) (off : Nat) (hoff : off < 0x40) (h : off % 4 ≠ 0) :
    locate p (p.base + off) 4 = .error .misaligned := by
  have h1 : off < windowBytes := hoff
  simp [locate, h1, h]

/-- A register has one offset, and a located access is a word access at it. -/
theorem locate_ok (p : Params) (addr size : Nat) (r : Reg) (h : locate p addr size = .ok r) :
    size = 4 ∧ p.base ≤ addr ∧ regAt (addr - p.base) = some r := by
  unfold locate at h
  split at h
  · cases h
  · rename_i hsize
    split at h
    · cases h
    · rename_i hwin
      split at h
      · cases h
      · split at h
        · rename_i hr
          cases h
          exact ⟨by omega, by omega, hr⟩
        · cases h

theorem regAt_cmd_iff (off : Nat) : regAt off = some .cmd ↔ off = 0 := by
  constructor
  · intro h
    unfold regAt at h
    split at h <;> first | rfl | (cases h)
  · rintro rfl; rfl

end Sys2Proof.Machine
end

