-- ==== Sys2Proof/Laws/Codec.lean ====
section
/-! SUPPORT. The codec and the frame functions by cases: when each answers a value, when an error, and which. -/

namespace Sys2Proof.Machine

/-! ## Operand sequences -/

@[simp] theorem operandBytes_length (s : State) (n : Nat) : (s.operandBytes n).length = n := by
  simp [State.operandBytes]

@[simp] theorem operandRegs_length (s : State) (n : Nat) : (s.operandRegs n).length = n := by
  simp [State.operandRegs]

/-- Two operand bytes are ARG0's low two (10_state.md R36). -/
theorem operandBytes_two (s : State) : s.operandBytes 2 = [s.arg0.extractLsb' 0 8, s.arg0.extractLsb' 8 8] := rfl

/-- Two Modbus registers are ARG0's halves, the low one first (10_state.md R37). -/
theorem operandRegs_two (s : State) : s.operandRegs 2 = [s.arg0.extractLsb' 0 16, s.arg0.extractLsb' 16 16] := rfl

theorem packWord_toNat (bs : List Byte) : (packWord bs).toNat =
    (bs.getD 0 0).toNat + 2 ^ 8 * (bs.getD 1 0).toNat + 2 ^ 16 * (bs.getD 2 0).toNat + 2 ^ 24 * (bs.getD 3 0).toNat := by
  have h : (packWord bs).toNat = (bs.getD 3 0 ++ bs.getD 2 0 ++ bs.getD 1 0 ++ bs.getD 0 0).toNat := rfl
  rw [h]
  simp only [toNat_append_add]
  omega

/-- Two bytes packed: `{0x0000, b1, b0}` (42_codec.md R128). -/
theorem packWord_pair (b0 b1 : Byte) : packWord [b0, b1] = 0#16 ++ b1 ++ b0 := by
  apply BitVec.eq_of_toNat_eq
  rw [packWord_toNat, show (0#16 ++ b1 ++ b0 : Word).toNat = (0#16 ++ b1 ++ b0).toNat from rfl]
  simp only [toNat_append_add]
  simp
  omega

/-! ## The functions, by cases -/

theorem encodeByte_of_fits (n : Int) (h : 0 ≤ n ∧ n ≤ 255) : encodeByte n = .ok [BitVec.ofInt 8 n] := if_pos h
theorem encodeByte_of_not_fits (n : Int) (h : ¬(0 ≤ n ∧ n ≤ 255)) : encodeByte n = .error .rangeError := if_neg h

theorem packShort_of_fits (sg : Signedness) (bo : ByteOrder) (n : Int) (h : inShortRange sg n = true) :
    packShort sg bo n = .ok (pack16 (BitVec.ofInt 16 n) bo) := if_pos h
theorem packShort_of_not_fits (sg : Signedness) (bo : ByteOrder) (n : Int) (h : inShortRange sg n = false) :
    packShort sg bo n = .error .rangeError := by simp [packShort, h]

theorem decodeShort_of_length (bs : List Byte) (d : Nat) (bo : ByteOrder) (sg : Signedness) (h : bs.length ≠ 2) :
    decodeShort bs d bo sg = .error .formatError := by
  match bs, h with
  | [], _ => rfl
  | [_], _ => rfl
  | [_, _], h => exact absurd rfl h
  | _ :: _ :: _ :: _, _ => rfl

theorem decodeFloat32_of_length (regs : List Half) (bo : ByteOrder) (wo : WordOrder) (h : regs.length ≠ 2) :
    decodeFloat32 regs bo wo = .error .formatError := by
  match regs, h with
  | [], _ => rfl
  | [_], _ => rfl
  | [_, _], h => exact absurd rfl h
  | _ :: _ :: _ :: _, _ => rfl

/-- encodeShort answers two packed bytes or RangeError, and the two bytes only for a finite value scaled into range (42_codec.md
R122). -/
theorem encodeShort_ok (mode : ScaleArith) (x : BitVec 64) (d : Nat) (bo : ByteOrder) (sg : Signedness) (bs : List Byte)
    (h : encodeShort mode x d bo sg = .ok bs) :
    ∃ v n, b64val x = .finite v ∧ scaled mode v d = some n ∧ inShortRange sg n = true ∧
      bs = pack16 (BitVec.ofInt 16 n) bo := by
  unfold encodeShort at h
  split at h
  · rename_i v hv
    split at h
    · rename_i n hn
      unfold packShort at h
      split at h
      · rename_i hr
        cases h
        exact ⟨v, n, hv, hn, hr, rfl⟩
      · cases h
    · cases h
  · cases h
  · cases h
  · cases h

theorem encodeShort_error (mode : ScaleArith) (x : BitVec 64) (d : Nat) (bo : ByteOrder) (sg : Signedness) (e : ErrorKind)
    (h : encodeShort mode x d bo sg = .error e) : e = .rangeError := by
  unfold encodeShort at h
  split at h
  · split at h
    · unfold packShort at h
      split at h <;> cases h
      rfl
    · cases h; rfl
  · cases h; rfl
  · cases h; rfl
  · cases h; rfl

/-- The bytes of a packed unit unpack to it (42_codec.md R124, R129). -/
theorem decodeShort_pack16 (u : Half) (d : Nat) (bo : ByteOrder) (sg : Signedness) :
    decodeShort (pack16 u bo) d bo sg = .ok (shortInt sg u, d) := by
  have h : u.extractLsb' 8 8 ++ u.extractLsb' 0 8 = u := by
    apply BitVec.eq_of_toNat_eq
    rw [toNat_append_add]
    simp [Nat.shiftRight_eq_div_pow]
    omega
  cases bo <;> simp [decodeShort, pack16, unpack16, h]

/-! ## Frames -/

/-- A byte packed into the low word of two is read back (10_state.md R38). -/
theorem byteOf_low (a b c d : Byte) (x : Word) :
    byteOf [packWord [a, b, c, d], x] 0 = a ∧ byteOf [packWord [a, b, c, d], x] 1 = b ∧
    byteOf [packWord [a, b, c, d], x] 2 = c ∧ byteOf [packWord [a, b, c, d], x] 3 = d := by
  refine ⟨?_, ?_, ?_, ?_⟩ <;> apply BitVec.eq_of_toNat_eq <;>
    simp [byteOf, packWord_toNat, Nat.shiftRight_eq_div_pow] <;> omega

/-- A byte packed into the high word of two is read back (10_state.md R38). -/
theorem byteOf_high (a b c d : Byte) (x : Word) :
    byteOf [x, packWord [a, b, c, d]] 4 = a ∧ byteOf [x, packWord [a, b, c, d]] 5 = b ∧
    byteOf [x, packWord [a, b, c, d]] 6 = c ∧ byteOf [x, packWord [a, b, c, d]] 7 = d := by
  refine ⟨?_, ?_, ?_, ?_⟩ <;> apply BitVec.eq_of_toNat_eq <;>
    simp [byteOf, packWord_toNat, Nat.shiftRight_eq_div_pow] <;> omega

/-- A body is its six bytes, and there is one exactly where every field fits (43_frame.md R160, R161). -/
theorem requestBody_ok (a f st c : Int) (body : List Byte) (h : requestBody a f st c = .ok body) :
    (0 ≤ a ∧ a ≤ 255) ∧ (0 ≤ f ∧ f ≤ 255) ∧ inShortRange .unsigned st = true ∧ inShortRange .unsigned c = true ∧
    body = [BitVec.ofInt 8 a, BitVec.ofInt 8 f, (BitVec.ofInt 16 st).extractLsb' 8 8, (BitVec.ofInt 16 st).extractLsb' 0 8,
      (BitVec.ofInt 16 c).extractLsb' 8 8, (BitVec.ofInt 16 c).extractLsb' 0 8] := by
  unfold requestBody encodeShort16 packShort encodeByte at h
  split at h <;> [skip; cases h]
  split at h <;> [skip; cases h]
  split at h <;> [skip; cases h]
  split at h <;> [skip; cases h]
  cases h
  exact ⟨‹_›, ‹_›, ‹_›, ‹_›, rfl⟩

theorem requestBody_error (a f st c : Int) (e : ErrorKind) (h : requestBody a f st c = .error e) : e = .rangeError := by
  unfold requestBody encodeShort16 packShort encodeByte at h
  split at h <;> [skip; (cases h; rfl)]
  split at h <;> [skip; (cases h; rfl)]
  split at h <;> [skip; (cases h; rfl)]
  split at h <;> [skip; (cases h; rfl)]
  cases h

/-- A built frame is six bytes and their checksum, low byte first (43_frame.md R160). -/
theorem buildReadRequest_ok (a f st c : Int) (fr : List Byte) (h : buildReadRequest a f st c = .ok fr) :
    ∃ b0 b1 b2 b3 b4 b5, fr = [b0, b1, b2, b3, b4, b5] ++ crcBytes (checksum [b0, b1, b2, b3, b4, b5]) := by
  unfold buildReadRequest at h
  cases hb : requestBody a f st c with
  | error e => rw [hb] at h; cases h
  | ok body =>
    rw [hb] at h
    obtain ⟨-, -, -, -, rfl⟩ := requestBody_ok _ _ _ _ _ hb
    cases h
    exact ⟨_, _, _, _, _, _, rfl⟩

/-- Where a frame goes, byte by byte (43_frame.md R163). -/
theorem frameByte_setRequest (s : State) (b0 b1 b2 b3 b4 b5 b6 b7 : Byte) :
    (List.range 8).map (s.setRequest [b0, b1, b2, b3, b4, b5, b6, b7]).frameByte = [b0, b1, b2, b3, b4, b5, b6, b7] := by
  have hl := byteOf_low b0 b1 b2 b3 (packWord [b4, b5, b6, b7])
  have hh := byteOf_high b4 b5 b6 b7 (packWord [b0, b1, b2, b3])
  have hr : List.range 8 = [0, 1, 2, 3, 4, 5, 6, 7] := rfl
  simp [hr, State.frameByte, State.frames, State.setRequest, hl, hh]

end Sys2Proof.Machine
end

