-- ==== Sys2Proof/Laws/Exec.lean ====
section
/-! SUPPORT. What exec can do, said once: every command answers a next state, either by raising or by writing result registers
and completing (60_exceptions.md R182 to R184). -/

namespace Sys2Proof.Machine

/-- Every command answers a next state. -/
theorem exec_next (i : Instr) (s : State) : ∃ t, exec i s = .next t := by
  cases i <;> exact ⟨_, rfl⟩

/-- A command that concludes raises an error of its function's, or writes its function's value and completes. -/
theorem conclude_cases {α : Type} (s t : State) (r : Except ErrorKind α) (write : State → α → State)
    (h : s.conclude r write = t) :
    (∃ e, r = .error e ∧ t = s.raise e) ∨ (∃ v, r = .ok v ∧ t = (write s v).complete) := by
  cases r with
  | ok v => exact .inr ⟨v, rfl, h.symm⟩
  | error e => exact .inl ⟨e, rfl, h.symm⟩

/-- The next state of a command: STATUS says it raised, or only result registers changed and STATUS says it completed. -/
theorem exec_cases (i : Instr) (s t : State) (h : exec i s = .next t) :
    (∃ e, t = s.raise e) ∨
    (∃ c r0 r1 f0 f1, t = ({ s with crc := c, res0 := r0, res1 := r1, frame0 := f0, frame1 := f1 } : State).complete) := by
  cases i with
  | crcInit => cases h; exact .inr ⟨_, _, _, _, _, rfl⟩
  | crcByte b => cases h; exact .inr ⟨_, _, _, _, _, rfl⟩
  | encByte =>
    obtain ⟨e, -, rfl⟩ | ⟨v, -, rfl⟩ := conclude_cases _ _ _ _ (Host.Outcome.next.inj h)
    · exact .inl ⟨e, rfl⟩
    · exact .inr ⟨_, _, _, _, _, rfl⟩
  | encShort bo sg d =>
    obtain ⟨e, -, rfl⟩ | ⟨v, -, rfl⟩ := conclude_cases _ _ _ _ (Host.Outcome.next.inj h)
    · exact .inl ⟨e, rfl⟩
    · exact .inr ⟨_, _, _, _, _, rfl⟩
  | decShort bo sg d c =>
    obtain ⟨e, -, rfl⟩ | ⟨v, -, rfl⟩ := conclude_cases _ _ _ _ (Host.Outcome.next.inj h)
    · exact .inl ⟨e, rfl⟩
    · exact .inr ⟨_, _, _, _, _, rfl⟩
  | decF32 bo wo c =>
    obtain ⟨e, -, rfl⟩ | ⟨v, -, rfl⟩ := conclude_cases _ _ _ _ (Host.Outcome.next.inj h)
    · exact .inl ⟨e, rfl⟩
    · exact .inr ⟨_, _, _, _, _, rfl⟩
  | buildRdreq =>
    obtain ⟨e, -, rfl⟩ | ⟨v, -, rfl⟩ := conclude_cases _ _ _ _ (Host.Outcome.next.inj h)
    · exact .inl ⟨e, rfl⟩
    · exact .inr ⟨_, _, _, _, _, rfl⟩
  | decRdresp c =>
    obtain ⟨e, -, rfl⟩ | ⟨v, -, rfl⟩ := conclude_cases _ _ _ _ (Host.Outcome.next.inj h)
    · exact .inl ⟨e, rfl⟩
    · exact .inr ⟨_, _, _, _, _, rfl⟩

end Sys2Proof.Machine
end

