-- ==== Sys2Proof/Laws/Float.lean ====
section
/-! SUPPORT. The exact arithmetic read in ℚ: what each of the fraction operations stands for (42_codec.md R125, R127). -/

namespace Sys2Proof.Machine

/-- A power of two with an integer exponent, as the fraction the model computes with. -/
theorem two_zpow_eq (e : ℤ) : (2 : ℚ) ^ e = (2 : ℚ) ^ e.toNat / (2 : ℚ) ^ (-e).toNat := by
  rcases Int.eq_nat_or_neg e with ⟨n, rfl | rfl⟩
  · simp
  · simp

theorem Ratio.toRat_ofScaled (n e : ℤ) : (Ratio.ofScaled n e).toRat = n * (2 : ℚ) ^ e := by
  rw [two_zpow_eq]
  simp [Ratio.toRat, Ratio.ofScaled]
  ring

theorem Ratio.ofScaled_den_pos (n e : ℤ) : 0 < (Ratio.ofScaled n e).den := by
  simp [Ratio.ofScaled]

theorem Ratio.toRat_timesNat (q : Ratio) (k : ℕ) : (q.timesNat k).toRat = q.toRat * k := by
  simp [Ratio.toRat, Ratio.timesNat]
  ring

theorem Ratio.abs_toRat (q : Ratio) : |q.toRat| = (q.num.natAbs : ℚ) / q.den := by
  simp [Ratio.toRat, abs_div]

theorem Ratio.toRat_eq_zero_iff (q : Ratio) (hd : 0 < q.den) : q.toRat = 0 ↔ q.num = 0 := by
  have : (q.den : ℚ) ≠ 0 := by exact_mod_cast hd.ne'
  simp [Ratio.toRat, this]

/-- The fraction's truncation is its rational's (00_scope.md R10). -/
theorem Ratio.trunc_eq_truncRat (q : Ratio) (hd : 0 < q.den) : q.trunc = truncRat q.toRat := by
  have hd' : (0 : ℚ) < q.den := by exact_mod_cast hd
  unfold Ratio.trunc truncRat Ratio.toRat
  by_cases h : 0 ≤ q.num
  · have h' : (0 : ℚ) ≤ (q.num : ℚ) / q.den := div_nonneg (by exact_mod_cast h) hd'.le
    rw [if_pos h', Int.tdiv_eq_ediv_of_nonneg h]
    exact (Rat.floor_intCast_div_natCast q.num q.den).symm
  · have hneg : q.num < 0 := by omega
    have h' : ¬(0 : ℚ) ≤ (q.num : ℚ) / q.den := not_le.mpr (div_neg_of_neg_of_pos (by exact_mod_cast hneg) hd')
    rw [if_neg h', ← neg_neg q.num, Int.neg_tdiv, Int.tdiv_eq_ediv_of_nonneg (by omega)]
    rw [← Rat.floor_intCast_div_natCast (-q.num) q.den]
    push_cast
    rw [neg_neg, neg_div, Int.floor_neg, neg_neg]

/-- floorLog2 is the integer k of R127: `2^k ≤ |q| < 2^(k+1)`. -/
theorem Ratio.floorLog2_spec (q : Ratio) (hd : 0 < q.den) (hn : q.num ≠ 0) :
    (2 : ℚ) ^ q.floorLog2 ≤ |q.toRat| ∧ |q.toRat| < (2 : ℚ) ^ (q.floorLog2 + 1) := by
  have hd' : (0 : ℚ) < q.den := by exact_mod_cast hd
  have hn' : q.num.natAbs ≠ 0 := by omega
  have n1 : (2 : ℚ) ^ (q.num.natAbs.log2 : ℤ) ≤ q.num.natAbs := by
    rw [zpow_natCast]; exact_mod_cast Nat.log2_self_le hn'
  have n2 : (q.num.natAbs : ℚ) < (2 : ℚ) ^ ((q.num.natAbs.log2 : ℤ) + 1) := by
    rw [← Nat.cast_succ, zpow_natCast]; exact_mod_cast Nat.lt_log2_self
  have d1 : (2 : ℚ) ^ (q.den.log2 : ℤ) ≤ q.den := by
    rw [zpow_natCast]; exact_mod_cast Nat.log2_self_le hd.ne'
  have d2 : (q.den : ℚ) < (2 : ℚ) ^ ((q.den.log2 : ℤ) + 1) := by
    rw [← Nat.cast_succ, zpow_natCast]; exact_mod_cast Nat.lt_log2_self
  rw [Ratio.abs_toRat]
  have hcond : ∀ k : ℤ, (2 ^ k.toNat * q.den ≤ q.num.natAbs * 2 ^ (-k).toNat) ↔
      (2 : ℚ) ^ k ≤ (q.num.natAbs : ℚ) / q.den := by
    intro k
    rw [two_zpow_eq, div_le_div_iff₀ (by positivity) hd']
    exact_mod_cast Iff.rfl
  unfold Ratio.floorLog2
  simp only [hcond]
  generalize (q.num.natAbs.log2 : ℤ) = a at *
  generalize (q.den.log2 : ℤ) = b at *
  have up : (q.num.natAbs : ℚ) / q.den < (2 : ℚ) ^ (a - b + 1) := by
    rw [div_lt_iff₀ hd']
    calc (q.num.natAbs : ℚ) < (2 : ℚ) ^ (a + 1) := n2
      _ = (2 : ℚ) ^ (a - b + 1) * (2 : ℚ) ^ b := by rw [← zpow_add₀ (by norm_num)]; congr 1; ring
      _ ≤ (2 : ℚ) ^ (a - b + 1) * q.den := by gcongr
  have low : (2 : ℚ) ^ (a - b - 1) ≤ (q.num.natAbs : ℚ) / q.den := by
    rw [le_div_iff₀ hd']
    calc (2 : ℚ) ^ (a - b - 1) * q.den ≤ (2 : ℚ) ^ (a - b - 1) * (2 : ℚ) ^ (b + 1) := by gcongr
      _ = (2 : ℚ) ^ a := by rw [← zpow_add₀ (by norm_num)]; congr 1; ring
      _ ≤ q.num.natAbs := n1
  split
  · exact ⟨‹_›, up⟩
  · rename_i h
    exact ⟨low, by rw [sub_add_cancel]; exact not_le.mp h⟩

/-- nearestEven is R127's nearest integer, ties to even. -/
theorem nearestEven_spec (n d : ℕ) (hd : 0 < d) : IsNearestEven ((n : ℚ) / d) (nearestEven n d) := by
  have hd' : (0 : ℚ) < d := by exact_mod_cast hd
  have hq : (n : ℚ) / d = (n / d : ℕ) + ((n % d : ℕ) : ℚ) / d := by
    have h : (n : ℚ) = d * (n / d : ℕ) + (n % d : ℕ) := by exact_mod_cast (Nat.div_add_mod n d).symm
    rw [h]
    field_simp
  have hlt : ((n % d : ℕ) : ℚ) / d < 1 := by rw [div_lt_one hd']; exact_mod_cast Nat.mod_lt n hd
  have hge : 0 ≤ ((n % d : ℕ) : ℚ) / d := by positivity
  have c1 : 2 * (n % d) < d ↔ ((n % d : ℕ) : ℚ) / d < 1 / 2 := by
    rw [div_lt_div_iff₀ hd' (by norm_num), one_mul, mul_comm]; exact_mod_cast Iff.rfl
  have c2 : d < 2 * (n % d) ↔ 1 / 2 < ((n % d : ℕ) : ℚ) / d := by
    rw [div_lt_div_iff₀ (by norm_num) hd', one_mul, mul_comm ((n % d : ℕ) : ℚ)]; exact_mod_cast Iff.rfl
  unfold IsNearestEven nearestEven
  rw [hq]
  simp only [c1, c2]
  generalize ((n % d : ℕ) : ℚ) / d = r at *
  generalize n / d = f at *
  split
  · left; rw [abs_lt]; constructor <;> push_cast <;> linarith
  · split
    · left; rw [abs_lt]; constructor <;> push_cast <;> linarith
    · have hr : r = 1 / 2 := by linarith
      right
      split
      · refine ⟨?_, ?_⟩
        · rw [abs_of_nonneg] <;> push_cast <;> linarith
        · rw [Int.even_coe_nat, Nat.even_iff]; assumption
      · refine ⟨?_, ?_⟩
        · rw [abs_of_nonpos] <;> push_cast <;> linarith
        · rw [Int.even_coe_nat, Nat.even_iff]; omega

theorem Ratio.two_pow_mul_den_le_iff (q : Ratio) (hd : 0 < q.den) (k : ℕ) :
    (2 : ℤ) ^ k * q.den ≤ q.num ↔ (2 : ℚ) ^ (k : ℤ) ≤ q.toRat := by
  have hd' : (0 : ℚ) < q.den := by exact_mod_cast hd
  rw [Ratio.toRat, le_div_iff₀ hd', zpow_natCast]
  exact_mod_cast Iff.rfl

/-- tooLarge is R127's overflow bound. -/
theorem Ratio.tooLarge_iff (q : Ratio) (hd : 0 < q.den) : q.tooLarge = true ↔ overflowBoundRat ≤ q.toRat := by
  unfold Ratio.tooLarge overflowBound overflowBoundRat
  rw [decide_eq_true_iff]
  exact q.two_pow_mul_den_le_iff hd 1024

/-- What rne64 answers is a fraction with a denominator. -/
theorem rne64_den_pos (q z : Ratio) (h : rne64 q = .finite z) : 0 < z.den := by
  unfold rne64 at h
  split at h
  · cases h; decide
  · split at h
    · split at h <;> cases h
    · cases h; exact Ratio.ofScaled_den_pos _ _

end Sys2Proof.Machine
end

