-- ==== Sys2Proof/Laws/PerInstr.lean ====
section
/-! SUPPORT. Statements about every command as syntax, one lemma per constructor. -/

namespace Sys2Proof.Laws.ReservedBitsZero

/-- The word of a command has its reserved bits, 11 and 23..19, at 0 (30_encoding.md R78). -/
def Statement (i : Instr) : Prop := (encode i).extractLsb' 11 1 = 0 ∧ (encode i).extractLsb' 19 5 = 0

theorem crcInit : Statement .crcInit := ⟨commandWord_reserved11 .., commandWord_reserved19 ..⟩
theorem crcByte (imm8 : Byte) : Statement (.crcByte imm8) := ⟨commandWord_reserved11 .., commandWord_reserved19 ..⟩
theorem encByte : Statement .encByte := ⟨commandWord_reserved11 .., commandWord_reserved19 ..⟩
theorem encShort (bo : ByteOrder) (sg : Signedness) (dec : Nat) : Statement (.encShort bo sg dec) :=
  ⟨commandWord_reserved11 .., commandWord_reserved19 ..⟩
theorem decShort (bo : ByteOrder) (sg : Signedness) (dec cnt : Nat) : Statement (.decShort bo sg dec cnt) :=
  ⟨commandWord_reserved11 .., commandWord_reserved19 ..⟩
theorem decF32 (bo : ByteOrder) (wo : WordOrder) (cnt : Nat) : Statement (.decF32 bo wo cnt) :=
  ⟨commandWord_reserved11 .., commandWord_reserved19 ..⟩
theorem buildRdreq : Statement .buildRdreq := ⟨commandWord_reserved11 .., commandWord_reserved19 ..⟩
theorem decRdresp (cnt : Nat) : Statement (.decRdresp cnt) := ⟨commandWord_reserved11 .., commandWord_reserved19 ..⟩

end Sys2Proof.Laws.ReservedBitsZero
end

