-- ==== Sys2Proof/Laws/Step.lean ====
section
/-! SUPPORT. What a step can do, said once (70_reset_and_hazards.md R211): the inversion lemma every invariant is derived from. -/

namespace Sys2Proof.Machine

@[simp] theorem step_nil (s : State) (h : s.pending = []) : step s = .next s := by
  simp [step, serveNext, h]

theorem step_cons (s : State) (ev : HostEvent) (rest : List HostEvent) (h : s.pending = ev :: rest) :
    step s = serve ev { s with pending := rest } := by
  simp [step, serveNext, h]

/-- A step that answers: nothing was pending; or a read was served; or an operand was written; or a word was received, and run
or rejected; or the platform reset the block. -/
theorem step_cases (s t : State) (h : step s = .next t) :
    (s.pending = [] ∧ t = s) ∨
    ∃ ev rest, s.pending = ev :: rest ∧
      ((∃ addr size r, ev = .memRead addr size ∧ locate s.params addr size = .ok r ∧
          t = ({ s with pending := rest }).give (s.readReg r)) ∨
       (∃ addr size n v, ev = .memWrite addr size v ∧ locate s.params addr size = .ok (.arg n) ∧
          t = ({ s with pending := rest }).setArg n v) ∨
       (∃ w i, ev = .memWrite s.params.base 4 w ∧ decode w = .ok i ∧
          exec i (({ s with pending := rest }).receive w) = .next t) ∨
       (∃ w why, ev = .memWrite s.params.base 4 w ∧ decode w = .error why ∧
          t = (({ s with pending := rest }).receive w).raise .illegalCommand) ∨
       (ev = .reset ∧ t = ({ s with pending := rest }).resetBlock)) := by
  cases hp : s.pending with
  | nil =>
    rw [step_nil s hp] at h
    cases h
    exact .inl ⟨rfl, rfl⟩
  | cons ev rest =>
    refine .inr ⟨ev, rest, rfl, ?_⟩
    rw [step_cons s ev rest hp] at h
    cases ev with
    | memRead addr size =>
      simp only [serve, serveRead] at h
      split at h
      · rename_i r hr
        cases h
        refine .inl ⟨addr, size, r, rfl, hr, ?_⟩
        cases r <;> rfl
      · cases h
    | memWrite addr size v =>
      simp only [serve, serveWrite] at h
      cases hl : locate s.params addr size with
      | error why => simp [hl, Except.bind] at h
      | ok r =>
        cases r with
        | cmd =>
          obtain ⟨hsize, hbase, hreg⟩ := locate_ok _ _ _ _ hl
          have haddr : addr = s.params.base := by
            have := (regAt_cmd_iff _).mp hreg
            omega
          subst hsize haddr
          simp only [hl, Except.bind, writeTarget, runCommand] at h
          split at h
          · rename_i i hi
            exact .inr (.inr (.inl ⟨v, i, rfl, hi, h⟩))
          · rename_i why hwhy
            cases h
            exact .inr (.inr (.inr (.inl ⟨v, why, rfl, hwhy, rfl⟩)))
        | arg n =>
          simp only [hl, Except.bind, writeTarget] at h
          cases h
          exact .inr (.inl ⟨addr, size, n, v, rfl, hl, rfl⟩)
        | status => simp [hl, Except.bind, writeTarget] at h
        | crc => simp [hl, Except.bind, writeTarget] at h
        | res n => simp [hl, Except.bind, writeTarget] at h
        | frame n => simp [hl, Except.bind, writeTarget] at h
    | reset =>
      simp only [serve] at h
      cases h
      exact .inr (.inr (.inr (.inr ⟨rfl, rfl⟩)))

/-- A CMD write served: the word is received, then run or rejected (20_memory.md R59). -/
theorem step_command (s : State) (w : Word) (rest : List HostEvent) (h : s.pending = .memWrite s.params.base 4 w :: rest) :
    step s = runCommand w { s with pending := rest } := by
  rw [step_cons s _ rest h]
  simp [serve, serveWrite, Except.bind, writeTarget]

end Sys2Proof.Machine
end

