-- ==== Sys2Proof/Tests/Slice0.lean ====
section
/-! SUPPORT. Tests: expected results come from spec/95_test_vectors.md (vector ids in the comments) or from a rule's own
example; and one witness for every obligation that has hypotheses. -/

open Sys2Proof Sys2Proof.Machine

namespace Sys2Proof.Tests

set_option Elab.async false

/-! ## WellFormed refuses what has no encoding (R75, R76) -/

theorem test_wf_refuses_decimals_16 : WellFormed (.encShort .big .unsigned 16) = false := by decide
theorem test_wf_refuses_decimals_16_in_decShort : WellFormed (.decShort .big .unsigned 16 2) = false := by decide
theorem test_wf_refuses_count_8_in_decShort : WellFormed (.decShort .big .unsigned 15 8) = false := by decide
theorem test_wf_refuses_count_8_in_decF32 : WellFormed (.decF32 .big .little 8) = false := by decide
theorem test_wf_refuses_count_8_in_decRdresp : WellFormed (.decRdresp 8) = false := by decide
theorem test_wf_admits_the_largest_fields : WellFormed (.decShort .little .signed 15 7) = true := by decide

/-! ## Decoding, each word written out from R70 and R79 -/

theorem test_decode_crcInit : decode 0b00000000_00000_000_0000_0_0_0_0_00000001 = .ok .crcInit := by decide
theorem test_decode_crcByte : decode 0b10100101_00000_000_0000_0_0_0_0_00000010 = .ok (.crcByte 0xA5) := by decide
theorem test_decode_encByte : decode 0b00000000_00000_000_0000_0_0_0_0_00010000 = .ok .encByte := by decide
theorem test_decode_encShort :
    decode 0b00000000_00000_000_1010_0_1_0_0_00010001 = .ok (.encShort .big .signed 10) := by decide
theorem test_decode_decShort :
    decode 0b00000000_00000_011_0101_0_0_0_1_00010010 = .ok (.decShort .little .unsigned 5 3) := by decide
theorem test_decode_decF32 :
    decode 0b00000000_00000_110_0000_0_0_1_0_00010011 = .ok (.decF32 .big .little 6) := by decide
theorem test_decode_buildRdreq : decode 0b00000000_00000_000_0000_0_0_0_0_00100000 = .ok .buildRdreq := by decide
theorem test_decode_decRdresp : decode 0b00000000_00000_101_0000_0_0_0_0_00100001 = .ok (.decRdresp 5) := by decide
/-- V-IL: IL1, IL4, IL5, IL6, IL9. -/
theorem test_decode_illegal :
    [0x00000000, 0x80000001, 0x00010011, 0x00080012, 0x00000120].map decode =
      [.error .unassignedOp, .error .unusedField, .error .unusedField, .error .reservedBit, .error .unusedField] := by
  decide
/-- No word is admitted by two rows: the opcodes of the rows differ and every mask covers OP (R80). -/
theorem test_rows_cannot_overlap :
    opTable.Pairwise (fun a b => fieldOP a.pattern ≠ fieldOP b.pattern) ∧
      ∀ r ∈ opTable, fieldOP r.mask = 0xFF ∧ r.pattern &&& r.mask = r.pattern := by decide
/-- The encoder's words are the vectors' (ES18, DS3, DF1, DR1). -/
theorem test_encode_words :
    [Instr.encShort .big .unsigned 2, .decShort .big .signed 1 2, .decF32 .big .little 2, .decRdresp 2].map encode =
      [0x00002011, 0x00021412, 0x00020213, 0x00020021] := by decide

/-! ## Commands, one step each -/

/-- An MBCORE whose window is not at 0, so that BASE counts. -/
def start : State := { State.reset with params := ⟨3, .binary64Rne⟩ }

/-- What a command leaves: STATUS, RES0, RES1, FRAME0, FRAME1, CRC. -/
def after (s : State) (w : Word) : Option (Word × Word × Word × Word × Word × Half) :=
  match step { s with pending := [commandWrite s.params w] } with
  | .next t => some (t.status.toWord, t.res0, t.res1, t.frame0, t.frame1, t.crc)
  | .fault _ => none
  | .refused _ => none

/-- CI1. -/
theorem test_crcInit : after { start with crc := 0x1234 } 0x00000001 = some (0x00000100, 0, 0, 0, 0, 0xFFFF) := by
  decide +kernel
/-- CB5, the second run. -/
theorem test_crcByte : after { start with crc := 0x41FF } 0x03000002 = some (0x00000200, 0, 0, 0, 0, 0x4141) := by
  decide +kernel
/-- CB7. -/
theorem test_crcByte_illegal : after start 0x00000102 = some (0x00000284, 0, 0, 0, 0, 0xFFFF) := by decide +kernel
/-- EB4. -/
theorem test_encByte_255 : after { start with arg0 := 0xFF } 0x00000010 = some (0x00001000, 0xFF, 0, 0, 0, 0xFFFF) := by
  decide +kernel
/-- EB6. -/
theorem test_encByte_minus_one : after { start with arg0 := 0xFFFFFFFF } 0x00000010 = some (0x00001081, 0, 0, 0, 0, 0xFFFF) := by
  decide +kernel
/-- ES20 in both modes. -/
theorem test_encShort_modes_differ :
    after { start with arg1 := 0xC028AE14, arg0 := 0x7AE147AE } 0x00002411 = some (0x00001100, 0x00002EFB, 0, 0, 0, 0xFFFF) ∧
    after { start with arg1 := 0xC028AE14, arg0 := 0x7AE147AE, params := ⟨3, .exact⟩ } 0x00002411 =
      some (0x00001100, 0x00002FFB, 0, 0, 0, 0xFFFF) :=
  ⟨by decide +kernel, by decide +kernel⟩
/-- ES30 (the smallest subnormal) and ES31 (1e300). -/
theorem test_encShort_extremes :
    after { start with arg1 := 0, arg0 := 1 } 0x0000F011 = some (0x00001100, 0, 0, 0, 0, 0xFFFF) ∧
    after { start with arg1 := 0x7E37E43C, arg0 := 0x8800759C } 0x00000011 = some (0x00001181, 0, 0, 0, 0, 0xFFFF) :=
  ⟨by decide +kernel, by decide +kernel⟩
/-- DS3. -/
theorem test_decShort_signed : after { start with arg0 := 0x000085FF } 0x00021412 =
    some (0x00001200, 0xFFFFFF85, 1, 0, 0, 0xFFFF) := by decide +kernel
/-- DS13. -/
theorem test_decShort_three_bytes : after { start with arg0 := 0x00000201, res0 := 7 } 0x00030012 =
    some (0x00001282, 7, 0, 0, 0, 0xFFFF) := by decide +kernel
/-- R141 with A..D = 01, 02, 03, 04: BO = 1, WO = 1. -/
theorem test_decF32_little_little : after { start with arg0 := 0x03040102 } 0x00020313 =
    some (0x00001300, 0x04030201, 0, 0, 0, 0xFFFF) := by decide +kernel
/-- R141 with A..D = 01, 02, 03, 04: BO = 1, WO = 0. -/
theorem test_decF32_little_big : after { start with arg0 := 0x03040102 } 0x00020113 =
    some (0x00001300, 0x02010403, 0, 0, 0, 0xFFFF) := by decide +kernel
/-- BR1, with a checksum being streamed. -/
theorem test_buildRdreq : after { start with arg0 := 3, arg1 := 3, arg2 := 3926, arg3 := 2, crc := 0x1234 } 0x00000020 =
    some (0x00002000, 0x0000ED26, 0, 0x560F0303, 0xED260200, 0x1234) := by decide +kernel
/-- BR12. -/
theorem test_buildRdreq_negative_count :
    after { start with arg0 := 1, arg1 := 3, arg3 := 0xFFFFFFFF, frame0 := 5 } 0x00000020 =
      some (0x00002081, 0, 0, 5, 0, 0xFFFF) := by decide +kernel
/-- DR1. -/
theorem test_decRdresp : after { start with arg0 := 0x41480000 } 0x00020021 =
    some (0x00002100, 0x41480000, 0, 0, 0, 0xFFFF) := by decide +kernel
/-- DR4 and DR5. -/
theorem test_decRdresp_no_value :
    after { start with arg0 := 0x41480000 } 0x00000021 = some (0x00002183, 0, 0, 0, 0, 0xFFFF) ∧
    after { start with arg0 := 0x41480000 } 0x00010021 = some (0x00002182, 0, 0, 0, 0, 0xFFFF) :=
  ⟨by decide +kernel, by decide +kernel⟩

/-! ## Functions no command shows whole -/

/-- CK12 and CK13. -/
theorem test_checksum : checksum [0x31, 0x32, 0x33, 0x34, 0x35, 0x36, 0x37, 0x38, 0x39] = 0x4B37 ∧
    checksum [0x03, 0x03, 0x0F, 0x56, 0x00, 0x02, 0x26, 0xED] = 0x0000 := ⟨by decide +kernel, by decide +kernel⟩
/-- The quiet NaN with payload 1 of DF9, and 12.5 of DF1 as 25 / 2. -/
theorem test_f32val : f32val 0x7FC00001 = .nan ∧ f32NanIsQuiet 0x7FC00001 = true ∧
    f32val 0x41480000 = .finite ⟨0x00C80000, 2 ^ 20⟩ := by decide +kernel
/-- ES17 and ES26: the assembler's patterns of −12.3 and 0.001 (R86). -/
theorem test_bits64 : bits64 ⟨-123, 10⟩ = 0xC02899999999999A ∧ bits64 ⟨1, 1000⟩ = 0x3F50624DD2F1A9FC := by decide +kernel
/-- DS3's value, −12.3 (R131). -/
theorem test_shortValue : shortValue (-123) 1 = ⟨-123, 10⟩ := by decide

/-! ## The host's transactions -/

/-- What the last of the host's reads returned. -/
def readBack (s : State) (off : Nat) : Option Word :=
  match step { s with pending := [.memRead (s.params.base + off) 4] } with
  | .next t => t.returned.getLast?
  | .fault _ => none
  | .refused _ => none

/-- HA1. -/
theorem test_reads_after_reset : readableOffsets.map (readBack start) =
    [some 0, some 0, some 0x0000FFFF, some 0, some 0, some 0, some 0, some 0, some 0, some 0, some 0] := by decide +kernel
/-- HA2. -/
theorem test_write_arg2 : step { start with pending := [.memWrite 0xD8 4 0x12345678] } =
    .next { start with arg2 := 0x12345678 } := rfl
/-- HA4. -/
theorem test_refusals :
    step { start with pending := [.memWrite 0xC4 4 1] } = .refused .readOnlyRegister ∧
    step { start with pending := [.memRead 0xCC 4] } = .refused .reservedOffset ∧
    step { start with pending := [.memRead 0xC1 4] } = .refused .misaligned ∧
    step { start with pending := [.memRead 0xC0 2] } = .refused .accessWidth ∧
    step { start with pending := [.memRead 0x100 4] } = .refused .outsideWindow := ⟨rfl, rfl, rfl, rfl, rfl⟩
/-- HA6. -/
theorem test_reset_event : step { start with crc := 0x1234, res0 := 5, pending := [.reset] } = .next start := rfl

/-! ## Witnesses: the obligations' hypotheses are met -/

/-- A state with one CMD write pending, and one more event after it. -/
def receiving (w : Word) : State := { start with pending := [.memWrite start.params.base 4 w, .reset] }

theorem witness_DecodeOfEncodeIsTheCommand : WellFormed (.decShort .little .signed 15 7) = true := by decide
theorem witness_EncodeOfDecodeIsTheWord : decode 0x00021412 = .ok (.decShort .big .signed 1 2) := by decide
theorem witness_TableEntriesFollowTheReduction (i : Byte) : ∃ r : Nat → Half, r 0 = i.setWidth 16 ∧
    ∀ k, r (k + 1) = if (r k).getLsbD 0 then (r k >>> 1) ^^^ 0xA001 else r k >>> 1 :=
  ⟨fun k => Nat.rec (i.setWidth 16) (fun _ q => if q.getLsbD 0 then (q >>> 1) ^^^ 0xA001 else q >>> 1) k, rfl, fun _ => rfl⟩
/-- For each opcode a legal and an illegal word meet the word clause of its command's statement. -/
theorem witness_word_clauses :
    (∀ w, (receiving w).pending = .memWrite (receiving w).params.base 4 w :: [.reset]) ∧
    ([0x00000001, 0x80000001, 0xFF000002, 0x00000102, 0x00000010, 0x01000010, 0x0000F511, 0x00010011, 0x0007F512, 0x00080012,
      0x00070313, 0x00000813, 0x00000020, 0x00000120, 0x00070021, 0x00000121] : List Word).map (·.extractLsb' 0 8) =
      [0x01, 0x01, 0x02, 0x02, 0x10, 0x10, 0x11, 0x11, 0x12, 0x12, 0x13, 0x13, 0x20, 0x20, 0x21, 0x21] :=
  ⟨fun _ => rfl, by decide⟩
/-- Events among a stream: two fed bytes with an operand write, a command, a read and an illegal word between them. -/
def streamed : List HostEvent :=
  [.memWrite 0xC0 4 0x31000002, .memWrite 0xD0 4 5, .memWrite 0xC0 4 0x00000010, .memRead 0xC8 4, .memWrite 0xC0 4 0x00000000,
   .memWrite 0xC0 4 0x32000002]
/-- A state with the stream pending after CRC_INIT, and one with it pending after a reset. -/
theorem witness_StreamedChecksumIsTheChecksum :
    (∃ s : State, s.params = start.params ∧ s.pending = .memWrite s.params.base 4 0x00000001 :: (streamed ++ [.reset])) ∧
    (∃ s : State, s.params = start.params ∧ s.pending = .reset :: (streamed ++ [.reset])) ∧
    ∀ ev ∈ streamed, ev.legal start.params = true ∧ ev.keepsStream start.params = true :=
  ⟨⟨{ start with pending := .memWrite start.params.base 4 0x00000001 :: (streamed ++ [.reset]) }, rfl, rfl⟩,
   ⟨{ start with pending := .reset :: (streamed ++ [.reset]) }, rfl, rfl⟩, by decide +kernel⟩
theorem witness_EncByteStoresTheByteOrFails :
    (0 ≤ (0x00000000 : Word).toInt ∧ (0x000000FF : Word).toInt ≤ 255) ∧ ¬(0x00000100 : Word).toInt ≤ 255 ∧
      ¬0 ≤ (0xFFFFFFFF : Word).toInt := by decide
theorem b64Rat_fields {p : BitVec 64} {s e f : Nat} (hs : (p.extractLsb' 63 1).toNat = s)
    (he : (p.extractLsb' 52 11).toNat = e) (hf : (p.extractLsb' 0 52).toNat = f) :
    b64Rat p = if e = 2047 then none else if e = 0 then some ((-1 : ℚ) ^ s * f * 2 ^ (-1074 : ℤ))
      else some ((-1 : ℚ) ^ s * (2 ^ 52 + f) * 2 ^ ((e : ℤ) - 1075)) := by
  subst hs he hf; rfl
/-- ENC_SHORT's clauses: NaN; 65535 in range; −32769 out of range with SG = 1. -/
theorem witness_EncShortStoresTheScaledIntegerOrFails :
    b64Rat 0x7FF8000000000000 = none ∧ b64Rat 0x40EFFFE000000000 = some 65535 ∧ ShortRange .unsigned 65535 ∧
      b64Rat 0xC0E0002000000000 = some (-32769) ∧ ¬ShortRange .signed (-32769) := by
  refine ⟨by simp [b64Rat], ?_, by simp [ShortRange], ?_, by simp [ShortRange]⟩
  · rw [b64Rat_fields (s := 0) (e := 1038) (f := 0xFFFE000000000) (by decide) (by decide) (by decide)]; norm_num
  · rw [b64Rat_fields (s := 1) (e := 1038) (f := 0x0002000000000) (by decide) (by decide) (by decide)]; norm_num
/-- ENC_SHORT's overflow clause: in the rounding mode the largest finite value with DEC = 1 has no scaled integer. -/
theorem witness_EncShort_overflow : ∃ v, b64val 0x7FEFFFFFFFFFFFFF = .finite v ∧ scaled .binary64Rne v 1 = none :=
  ⟨_, rfl, by decide +kernel⟩
theorem witness_DecShort_DecF32_wrong_count : ∀ cnt ∈ [0, 1, 3, 7], cnt ≠ 2 := by decide
theorem witness_DecF32AssemblesTheFourOrders : (0x03040102 : Word) = 0x03#8 ++ 0x04#8 ++ 0x01#8 ++ 0x02#8 := by decide
theorem witness_ShortRoundTripRecoversTheScaledInteger :
    encodeShort .exact 0xC02899999999999A 1 .little .signed = .ok [0x85, 0xFF] ∧
    b64Rat 0xC0E0000000000000 = some ((-32768 : ℤ) : ℚ) ∧ ShortRange .signed (-32768) := by
  refine ⟨by decide +kernel, ?_, by simp [ShortRange]⟩
  rw [b64Rat_fields (s := 1) (e := 1038) (f := 0) (by decide) (by decide) (by decide)]; norm_num
theorem witness_Binary64ValueIsTheRulesRational :
    b64Rat 0x0000000000000001 = some (2 ^ (-1074 : ℤ)) ∧ (0xFFF0000000000000 : BitVec 64).extractLsb' 52 11 = 2047 := by
  refine ⟨by simp [b64Rat], by decide⟩
theorem witness_Binary32ValueIsTheRulesRational :
    f32Rat 0x41480000 = some (25 / 2) ∧ (0xFF800000 : Word).extractLsb' 23 8 = 255 ∧ f32val 0x7F800001 = .nan := by
  refine ⟨?_, by decide, by decide⟩
  have hs : ((0x41480000 : Word).extractLsb' 31 1).toNat = 0 := by decide
  have he : ((0x41480000 : Word).extractLsb' 23 8).toNat = 130 := by decide
  have hf : ((0x41480000 : Word).extractLsb' 0 23).toNat = 0x480000 := by decide
  rw [f32Rat, hs, he, hf]; norm_num
theorem witness_RoundingToBinary64FollowsTheRule : 0 < (Ratio.mk 1 3).den := by decide
/-- BUILD_RDREQ's operands at the ends of their ranges, and one past each end. -/
theorem witness_BuildRdreqComposesTheFrameOrFails :
    (0x000000FF : Word) = (0xFF : Byte).setWidth 32 ∧ (0x0000FFFF : Word) = (0xFFFF : Half).setWidth 32 ∧
    ¬(0x00000100 : Word).toInt ≤ 255 ∧ ¬(0x00010000 : Word).toInt ≤ 65535 ∧ ¬0 ≤ (0x80000000 : Word).toInt := by decide
/-- P2's operands and transactions. -/
theorem witness_StreamingAFrameGivesItsChecksum : ∃ s : State,
    s.arg0 = (3 : Byte).setWidth 32 ∧ s.arg1 = (3 : Byte).setWidth 32 ∧ s.arg2 = (3926 : Half).setWidth 32 ∧
    s.arg3 = (2 : Half).setWidth 32 ∧ s.pending = Line.buildRdreq.event s.params ::
      ((checksumLines [3, 3, 0x0F, 0x56, 0, 2]).map (Line.event s.params) ++ []) :=
  ⟨{ start with arg0 := 3, arg1 := 3, arg2 := 3926, arg3 := 2, pending := Line.buildRdreq.event start.params ::
      ((checksumLines [3, 3, 0x0F, 0x56, 0, 2]).map (Line.event start.params) ++ []) }, rfl, rfl, rfl, rfl, rfl⟩
theorem witness_DecRdresp_wrong_count : ∀ cnt ∈ [1, 3, 7], cnt ≠ 0 ∧ cnt ≠ 2 := by decide
theorem witness_CommandsWriteOnlyTheirRegisters_SecondRun (i : Instr) : ∃ t, exec i start = .next t := exec_next i start
/-- A command's failure, and an illegal word's. -/
theorem witness_FailedCommandsWriteNoResult :
    (∃ t, exec (.decRdresp 0) start = .next t ∧ t.status.err ≠ 0) ∧
    (∃ t, step (receiving 0) = .next t ∧ t.status.err ≠ 0) := ⟨⟨_, rfl, by decide⟩, ⟨_, rfl, by decide⟩⟩
theorem witness_StepRunsTheDecodedCommand :
    (receiving 0x10).pending = .memWrite (receiving 0x10).params.base 4 0x10 :: [.reset] ∧ decode 0x10 = .ok .encByte ∧
    (receiving 0).pending = .memWrite (receiving 0).params.base 4 0 :: [.reset] ∧ decode 0 = .error .unassignedOp := by
  decide
/-- Each offset of the clauses about reads, writes and refusals is met by a state. -/
theorem witness_window_clauses (off : Nat) (v : Word) :
    (∃ s : State, s.pending = .memRead (s.params.base + off) 4 :: []) ∧
    (∃ s : State, s.pending = .memWrite (s.params.base + off) 4 v :: []) :=
  ⟨⟨{ start with pending := [.memRead (start.params.base + off) 4] }, rfl⟩,
   ⟨{ start with pending := [.memWrite (start.params.base + off) 4 v] }, rfl⟩⟩
/-- Misaligned offsets at the window's two ends, and a width that is not 32 bits. -/
theorem witness_MeaninglessTransactionsAreRefused :
    (0x01 < 0x40 ∧ 0x01 % 4 ≠ 0) ∧ (0x3F < 0x40 ∧ 0x3F % 4 ≠ 0) ∧ (8 : Nat) ≠ 4 := by decide
theorem witness_ResetEventSetsEveryRegister : ∃ s : State, s.pending = .reset :: [.reset] ∧ s.crc ≠ 0xFFFF :=
  ⟨{ start with crc := 0, pending := [.reset, .reset] }, rfl, by decide⟩
/-- Legal and illegal events at the ends of the window. -/
theorem witness_LegalEventsHaveAStep_LegalRuns_Reads :
    (HostEvent.memRead 0xC0 4).legal start.params = true ∧ (HostEvent.memRead 0xEC 4).legal start.params = true ∧
    (HostEvent.memRead 0xF0 4).legal start.params = false ∧ (HostEvent.memRead 0xBC 4).legal start.params = false ∧
    (HostEvent.memWrite 0xDC 4 1).legal start.params = true ∧ (HostEvent.memWrite 0xE0 4 1).legal start.params = false ∧
    HostEvent.reset.legal start.params = true := by decide
/-- A command, an operand write and a reset, each answered. -/
theorem witness_ErrorSeenIsClearedByResetOnly :
    (∃ t, step (receiving 0x10) = .next t) ∧ ((HostEvent.memWrite 0xC0 4 0x10).commandWord start.params).isSome = true ∧
    (∃ t, step { start with pending := [.memWrite 0xD0 4 1] } = .next t) ∧
    ((HostEvent.memWrite 0xD0 4 1).commandWord start.params).isSome = false ∧
    (∃ t, step { start with pending := [.reset] } = .next t) :=
  ⟨⟨_, rfl⟩, by decide, ⟨_, rfl⟩, by decide, ⟨_, rfl⟩⟩
/-- A state that holds the frame of BR1, the rest of the invariant's fields at the ends of their ranges. -/
def holdingFrame : State :=
  { start with cmd := 0x20, status := ⟨0, true, 0x20⟩, frame0 := 0x560F0303, frame1 := 0xED260200, res1 := 15,
               pending := [.memWrite 0xC0 4 0] }

theorem witness_StepsKeep : holdingFrame.StatusCoherent ∧ holdingFrame.FrameChecked ∧ holdingFrame.Res1IsDecimals ∧
    holdingFrame.frame0 ≠ 0 ∧ ∃ t, step holdingFrame = .next t :=
  ⟨⟨by decide, by decide, by decide⟩, .inr (by decide +kernel), by unfold State.Res1IsDecimals; decide, by decide, _, rfl⟩

end Sys2Proof.Tests
end

/-! # STATUS, the state and the CRC table: the statements of 10_state.md -/

/-! ## What a command does to STATUS, said once (10_state.md R24 to R27) -/

namespace Sys2Proof.Machine

/-- STATUS once a command has ended with the code `err`: ERR takes it, ERRSEEN keeps a record of any code but 0, LASTOP stays
(R25 to R27). -/
def Status.endedWith (st : Status) (err : BitVec 4) : Status :=
  { st with err := err, errSeen := st.errSeen || err != 0 }

@[simp] theorem Status.endedWith_err (st : Status) (err : BitVec 4) : (st.endedWith err).err = err := rfl
@[simp] theorem Status.endedWith_errSeen (st : Status) (err : BitVec 4) :
    (st.endedWith err).errSeen = (st.errSeen || err != 0) := rfl

theorem Status.completed_eq_endedWith (st : Status) : st.completed = st.endedWith 0 := by
  simp [Status.completed, Status.endedWith]

theorem Status.raised_eq_endedWith (st : Status) (e : ErrorKind) : st.raised e = st.endedWith e.code := by
  have hcode : e.code ≠ 0#4 := e.code_ne_zero
  simp [Status.raised, Status.endedWith, hcode]

/-- Every command takes STATUS from what it was to that ended with the command's own code. -/
theorem exec_status {i : Instr} {s t : State} (h : exec i s = .next t) :
    t.status = s.status.endedWith t.status.err := by
  obtain ⟨e, rfl⟩ | ⟨c, r0, r1, f0, f1, rfl⟩ := exec_cases i s t h
  · exact s.status.raised_eq_endedWith e
  · exact s.status.completed_eq_endedWith

/-! ## Commands and an earlier STATUS (R39) -/

@[simp] theorem State.withStatus_status (s : State) (st : Status) : (s.withStatus st).status = st := rfl
@[simp] theorem State.withStatus_withStatus (s : State) (st st' : Status) :
    (s.withStatus st).withStatus st' = s.withStatus st' := rfl

theorem State.complete_withStatus (s : State) (st : Status) :
    (s.withStatus st).complete = s.complete.withStatus (st.endedWith s.complete.status.err) :=
  congrArg s.withStatus st.completed_eq_endedWith

theorem State.raise_withStatus (s : State) (st : Status) (e : ErrorKind) :
    (s.withStatus st).raise e = (s.raise e).withStatus (st.endedWith (s.raise e).status.err) :=
  congrArg s.withStatus (st.raised_eq_endedWith e)

/-- A command whose write leaves STATUS to itself concludes alike from every STATUS. -/
theorem conclude_withStatus {α : Type} (s : State) (st : Status) (r : Except ErrorKind α) (write : State → α → State)
    (hwrite : ∀ v, write (s.withStatus st) v = (write s v).withStatus st) :
    (s.withStatus st).conclude r write =
      (s.conclude r write).withStatus (st.endedWith (s.conclude r write).status.err) := by
  cases r with
  | ok v => simp only [conclude_ok, hwrite, State.complete_withStatus]
  | error e => simp only [conclude_error, State.raise_withStatus]

/-- The second run of R39: from another STATUS a command ends in the same state with the same code, and STATUS is the other one
ended with that code. -/
theorem exec_withStatus {i : Instr} {s t : State} (st : Status) (h : exec i s = .next t) :
    exec i (s.withStatus st) = .next (t.withStatus (st.endedWith t.status.err)) := by
  cases i with
  | crcInit => cases h; exact congrArg Host.Outcome.next (State.complete_withStatus (s.setCrc _) st)
  | crcByte b => cases h; exact congrArg Host.Outcome.next (State.complete_withStatus (s.setCrc _) st)
  | encByte => cases h; exact congrArg _ (conclude_withStatus s st _ _ fun _ => rfl)
  | encShort bo sg dec => cases h; exact congrArg _ (conclude_withStatus s st _ _ fun _ => rfl)
  | decShort bo sg dec cnt => cases h; exact congrArg _ (conclude_withStatus s st _ _ fun _ => rfl)
  | decF32 bo wo cnt => cases h; exact congrArg _ (conclude_withStatus s st _ _ fun _ => rfl)
  | buildRdreq => cases h; exact congrArg _ (conclude_withStatus s st _ _ fun _ => rfl)
  | decRdresp cnt => cases h; exact congrArg _ (conclude_withStatus s st _ _ fun _ => rfl)

/-- Settles O26: the two runs differ in STATUS alone, and there ERR is the same. -/
theorem commandsIgnoreEarlierStatus : Obligations.CommandsIgnoreEarlierStatus := by
  unfold Obligations.CommandsIgnoreEarlierStatus
  intro i s st
  obtain ⟨t, ht⟩ := exec_next i s
  exact ⟨t, _, ht, exec_withStatus st ht, by simp, by simp⟩

/-! ## ERRSEEN along a step (R26) -/

@[simp] theorem HostEvent.commandWord_memWrite_base (p : Params) (w : Word) :
    (HostEvent.memWrite p.base 4 w).commandWord p = some w := by
  simp [HostEvent.commandWord]

@[simp] theorem HostEvent.commandWord_memRead (p : Params) (addr size : Nat) :
    (HostEvent.memRead addr size).commandWord p = none := rfl

@[simp] theorem HostEvent.commandWord_reset (p : Params) : HostEvent.reset.commandWord p = none := rfl

/-- A write that lands in an operand register is no CMD write (20_memory.md R51). -/
theorem HostEvent.commandWord_memWrite_arg {p : Params} {addr size : Nat} {n : Fin 4} (v : Word)
    (h : locate p addr size = .ok (.arg n)) : (HostEvent.memWrite addr size v).commandWord p = none := by
  have hcmd : ¬(addr = p.base ∧ size = 4) := by
    rintro ⟨rfl, rfl⟩
    simp at h
  simp [HostEvent.commandWord, hcmd]

/-- Settles O37, by the kinds of event a step can have served. -/
theorem errorSeenIsClearedByResetOnly : Obligations.ErrorSeenIsClearedByResetOnly := by
  unfold Obligations.ErrorSeenIsClearedByResetOnly
  intro s t ev rest hpending hstep
  obtain ⟨hnil, -⟩ | ⟨ev', rest', hpending', hserved⟩ := step_cases s t hstep
  · simp [hpending] at hnil
  obtain ⟨rfl, rfl⟩ : ev = ev' ∧ rest = rest' := by simpa [hpending] using hpending'
  obtain ⟨addr, size, r, rfl, -, rfl⟩ | ⟨addr, size, n, v, rfl, hloc, rfl⟩ | ⟨w, i, rfl, -, hexec⟩ |
    ⟨w, why, rfl, -, rfl⟩ | ⟨rfl, rfl⟩ := hserved
  · simp -- a read
  · simp [HostEvent.commandWord_memWrite_arg v hloc] -- an operand write
  · -- a legal command: ERRSEEN as it was once the word was received, or the command's own error
    have hseen := congrArg Status.errSeen (exec_status hexec)
    simpa using hseen
  · simp [ErrorKind.code] -- an illegal word
  · simp -- a reset

/-! ## The CRC table (R31, R32) -/

/-- R32's table is R31's reduction evaluated at the indices in order. The table is data, so its 256 entries are compared one by
one. -/
theorem crcTable_eq_map_range :
    crcTable = (List.range 256).map fun n => repeatTimes crcRound 8 (BitVec.ofNat 16 n) := by
  decide +kernel

/-- An entry is eight rounds of its index (R31). -/
theorem tableEntry_eq_rounds (i : Byte) : tableEntry i = repeatTimes crcRound 8 (i.setWidth 16) := by
  have hi : i.toNat < 256 := i.isLt
  simp [tableEntry, crcTable_eq_map_range, hi, BitVec.ofNat_toNat]

/-- A sequence of rounds, from its `k`-th value on, is the rounds repeated. -/
theorem repeatTimes_of_sequence {α : Type} {f : α → α} {r : Nat → α} (hr : ∀ k, r (k + 1) = f (r k)) (n k : Nat) :
    repeatTimes f n (r k) = r (k + n) := by
  induction n generalizing k with
  | zero => rfl
  | succ n ih => rw [repeatTimes_succ, ← hr, ih, Nat.add_right_comm, Nat.add_assoc]

/-- Settles O6: the sequence of the statement runs through the rounds that give the entry. -/
theorem tableEntriesFollowTheReduction : Obligations.TableEntriesFollowTheReduction := by
  unfold Obligations.TableEntriesFollowTheReduction
  refine ⟨crcTable_length, fun i r hzero hsucc => ?_⟩
  have hround : ∀ k, r (k + 1) = crcRound (r k) := hsucc
  rw [tableEntry_eq_rounds, ← hzero]
  exact repeatTimes_of_sequence hround 8 0

/-! ## STATUS as the host reads it (R24, R28) -/

theorem Status.toWord_toNat (st : Status) :
    st.toWord.toNat = st.err.toNat + 2 ^ 7 * st.errSeen.toNat + 2 ^ 8 * st.lastOp.toNat := by
  have hbit : st.errSeenBit.toNat = st.errSeen.toNat := by
    unfold Status.errSeenBit
    cases st.errSeen <;> rfl
  simp only [Status.toWord, toNat_append_add, hbit]
  simp
  omega

section Fields
variable (st : Status)

theorem Status.toWord_err : st.toWord.extractLsb' 0 4 = st.err := by
  apply BitVec.eq_of_toNat_eq
  simp [Status.toWord_toNat]
  omega

theorem Status.toWord_reserved4 : st.toWord.extractLsb' 4 3 = 0 := by
  apply BitVec.eq_of_toNat_eq
  simp [Status.toWord_toNat, Nat.shiftRight_eq_div_pow]
  omega

theorem Status.toWord_errSeen : st.toWord.getLsbD 7 = st.errSeen := by
  rw [← BitVec.testBit_toNat, Status.toWord_toNat, Nat.testBit_eq_decide_div_mod_eq]
  cases h : st.errSeen <;> simp <;> omega

theorem Status.toWord_lastOp : st.toWord.extractLsb' 8 8 = st.lastOp := by
  apply BitVec.eq_of_toNat_eq
  have hseen := st.errSeen.toNat_le
  simp [Status.toWord_toNat, Nat.shiftRight_eq_div_pow]
  omega

theorem Status.toWord_reserved16 : st.toWord.extractLsb' 16 16 = 0 := by
  apply BitVec.eq_of_toNat_eq
  have hseen := st.errSeen.toNat_le
  simp [Status.toWord_toNat, Nat.shiftRight_eq_div_pow]
  omega
end Fields

/-- STATUS stands in the window, and the host cannot write it (R28, 20_memory.md R57). -/
theorem serveWrite_status (s : State) (v : Word) :
    serveWrite (s.params.base + 0x04) 4 v s = .refused .readOnlyRegister := by
  have hloc : locate s.params (s.params.base + 0x04) 4 = .ok .status :=
    locate_in_window s.params 0x04 (by decide) (by decide)
  simp [serveWrite, hloc, Except.bind, writeTarget]

/-- Settles O30: the word field by field, and the refusal of the window. -/
theorem statusReadsAsItsFields : Obligations.StatusReadsAsItsFields := by
  unfold Obligations.StatusReadsAsItsFields
  refine ⟨fun s => ?_, fun s v rest hpending => ?_⟩
  · exact ⟨s.status.toWord_err, s.status.toWord_reserved4, s.status.toWord_errSeen, s.status.toWord_lastOp,
      s.status.toWord_reserved16⟩
  · rw [step_cons s _ rest hpending]
    exact serveWrite_status { s with pending := rest } v

end Sys2Proof.Machine

/-! # The register window: the statements of 20_memory.md -/

namespace Sys2Proof.Machine

/-! ## The register map both ways (R51) -/

/-- A register stands at its own offset and at no other (R51). -/
theorem regAt_eq_some_iff {off : Nat} {r : Reg} : regAt off = some r ↔ off = regOffset r := by
  constructor
  · intro h
    unfold regAt at h
    split at h <;> cases h <;> rfl
  · rintro rfl
    cases r with
    | cmd => rfl
    | status => rfl
    | crc => rfl
    | arg n => fin_cases n <;> rfl
    | res n => fin_cases n <;> rfl
    | frame n => fin_cases n <;> rfl

theorem regOffset_mem_readableOffsets (r : Reg) : regOffset r ∈ readableOffsets := by
  cases r with
  | cmd => decide
  | status => decide
  | crc => decide
  | arg n => exact (by decide : ∀ n : Fin 4, regOffset (.arg n) ∈ readableOffsets) n
  | res n => exact (by decide : ∀ n : Fin 2, regOffset (.res n) ∈ readableOffsets) n
  | frame n => exact (by decide : ∀ n : Fin 2, regOffset (.frame n) ∈ readableOffsets) n

theorem regOffset_aligned (r : Reg) : regOffset r < 0x40 ∧ regOffset r % 4 = 0 :=
  (by decide : ∀ off ∈ readableOffsets, off < 0x40 ∧ off % 4 = 0) _ (regOffset_mem_readableOffsets r)

/-- The registers the host may write are CMD and the operands (R53, R57). -/
theorem regOffset_mem_writableOffsets {r : Reg} {t : WriteTarget} (h : writeTarget r = .ok t) :
    regOffset r ∈ writableOffsets := by
  cases r with
  | cmd => decide
  | arg n => exact (by decide : ∀ n : Fin 4, regOffset (.arg n) ∈ writableOffsets) n
  | status => cases h
  | crc => cases h
  | res n => cases h
  | frame n => cases h

/-! ## What the window locates -/

@[simp] theorem locate_regOffset (p : Params) (r : Reg) : locate p (p.base + regOffset r) 4 = .ok r := by
  obtain ⟨hoff, halign⟩ := regOffset_aligned r
  rw [locate_in_window p _ hoff halign, regAt_eq_some_iff.mpr rfl]

/-- The reserved offsets are word-aligned window offsets without a register (R56). -/
theorem locate_reserved (p : Params) {off : Nat} (h : off ∈ [0x0C, 0x30, 0x34, 0x38, 0x3C]) :
    locate p (p.base + off) 4 = .error .reservedOffset := by
  have hmap : ∀ o ∈ [0x0C, 0x30, 0x34, 0x38, 0x3C], o < 0x40 ∧ o % 4 = 0 ∧ regAt o = none := by decide
  obtain ⟨hoff, halign, hnone⟩ := hmap off h
  rw [locate_in_window p off hoff halign, hnone]

/-- What an access in the window locates stands at the access's offset. -/
theorem eq_regOffset_of_locate {p : Params} {off size : Nat} {r : Reg} (h : locate p (p.base + off) size = .ok r) :
    off = regOffset r := by
  obtain ⟨-, -, hreg⟩ := locate_ok p _ size r h
  rw [Nat.add_sub_cancel_left] at hreg
  exact regAt_eq_some_iff.mp hreg

/-! ## A step that serves a read or a write (R52, R53) -/

section Transactions
variable {s : State} {addr size : Nat} {v : Word} {rest : List HostEvent}

/-- A served read hands over the register's value and changes no register (R52, R58). -/
theorem step_read {r : Reg} (h : s.pending = .memRead addr size :: rest) (hloc : locate s.params addr size = .ok r) :
    step s = .next { s with pending := rest, returned := s.returned ++ [s.readReg r] } := by
  rw [step_cons s _ rest h]
  simp only [serve, serveRead, hloc]
  cases r <;> rfl

theorem step_read_refused {why : Refusal} (h : s.pending = .memRead addr size :: rest)
    (hloc : locate s.params addr size = .error why) : step s = .refused why := by
  rw [step_cons s _ rest h]
  simp only [serve, serveRead, hloc]

theorem step_write_operand {n : Fin 4} (h : s.pending = .memWrite addr size v :: rest)
    (hloc : locate s.params addr size = .ok (.arg n)) : step s = .next (({ s with pending := rest }).setArg n v) := by
  rw [step_cons s _ rest h]
  simp only [serve, serveWrite, hloc, Except.bind, writeTarget]

theorem step_write_refused {why : Refusal} (h : s.pending = .memWrite addr size v :: rest)
    (htarget : (locate s.params addr size).bind writeTarget = .error why) : step s = .refused why := by
  rw [step_cons s _ rest h]
  simp only [serve, serveWrite, htarget]

end Transactions

/-! ## Reads (R52) -/

/-- The table of R52, as the register map and the value of each register. -/
theorem exists_reg_of_mem_readTable {s : State} {off : Nat} {v : Word}
    (h : (off, v) ∈ [(0x00, s.cmd), (0x04, s.status.toWord), (0x08, 0#16 ++ s.crc), (0x10, s.arg0), (0x14, s.arg1),
      (0x18, s.arg2), (0x1C, s.arg3), (0x20, s.res0), (0x24, s.res1), (0x28, s.frame0), (0x2C, s.frame1)]) :
    ∃ r, off = regOffset r ∧ v = s.readReg r := by
  have hcrc : 0#16 ++ s.crc = s.crc.setWidth 32 := (BitVec.setWidth_eq_append (by decide)).symm
  have htable : (off, v) ∈ ([.cmd, .status, .crc, .arg 0, .arg 1, .arg 2, .arg 3, .res 0, .res 1, .frame 0,
      .frame 1] : List Reg).map fun r => (regOffset r, s.readReg r) := by
    rw [hcrc] at h
    exact h
  obtain ⟨r, -, hr⟩ := List.mem_map.mp htable
  cases hr
  exact ⟨r, rfl, rfl⟩

/-- No register is read at an offset that is not readable: every register's offset is. -/
theorem locate_unreadable (p : Params) {off : Nat} (h : off ∉ readableOffsets) :
    ∃ why, locate p (p.base + off) 4 = .error why := by
  cases hloc : locate p (p.base + off) 4 with
  | error why => exact ⟨why, rfl⟩
  | ok r => exact absurd (eq_regOffset_of_locate hloc ▸ regOffset_mem_readableOffsets r) h

/-- Settles O29: R52's table is the register map, and outside it nothing is located. -/
theorem readsReturnTheRegister : Obligations.ReadsReturnTheRegister := by
  unfold Obligations.ReadsReturnTheRegister
  intro s off rest hpending
  refine ⟨fun v hv => ?_, fun hreserved => ?_, fun hunreadable => ?_⟩
  · obtain ⟨r, rfl, rfl⟩ := exists_reg_of_mem_readTable hv
    exact step_read hpending (locate_regOffset s.params r)
  · exact step_read_refused hpending (locate_reserved s.params hreserved)
  · obtain ⟨why, hwhy⟩ := locate_unreadable s.params hunreadable
    exact ⟨why, step_read_refused hpending hwhy⟩

/-! ## Writes (R53) -/

/-- No write has a target at an offset that is not writable: every target's offset is. -/
theorem writeTarget_unwritable (p : Params) {off : Nat} (h : off ∉ writableOffsets) :
    ∃ why, (locate p (p.base + off) 4).bind writeTarget = .error why := by
  cases hloc : locate p (p.base + off) 4 with
  | error why => exact ⟨why, rfl⟩
  | ok r =>
    cases htarget : writeTarget r with
    | error why => exact ⟨why, htarget⟩
    | ok t => exact absurd (eq_regOffset_of_locate hloc ▸ regOffset_mem_writableOffsets htarget) h

/-- Settles O31: an operand's offset locates that operand, the base is CMD's, and no other offset has a write target. -/
theorem writesStoreOperandsOrRunCommands : Obligations.WritesStoreOperandsOrRunCommands := by
  unfold Obligations.WritesStoreOperandsOrRunCommands
  intro s off v rest hpending
  have hoperand : ∀ n, off = regOffset (.arg n) → step s = .next (({ s with pending := rest }).setArg n v) := by
    rintro n rfl
    exact step_write_operand hpending (locate_regOffset s.params (.arg n))
  refine ⟨hoperand 0, hoperand 1, hoperand 2, hoperand 3, ?_, fun hunwritable => ?_⟩
  · rintro rfl
    exact step_command s v rest hpending
  · obtain ⟨why, hwhy⟩ := writeTarget_unwritable s.params hunwritable
    exact ⟨why, step_write_refused hpending hwhy⟩

end Sys2Proof.Machine

/-! # The decoder: the statement of 30_encoding.md R79 -/

namespace Sys2Proof

/-! ## A row is known by its opcode (R71, R79) -/

theorem fieldOP_and (v w : Word) : fieldOP (v &&& w) = fieldOP v &&& fieldOP w := BitVec.extractLsb'_and

/-- No two rows have one opcode. -/
theorem opTable_row_unique {r r' : OpRow} (hr : r ∈ opTable) (hr' : r' ∈ opTable)
    (h : fieldOP r.pattern = fieldOP r'.pattern) : r = r' :=
  List.inj_on_of_nodup_map (by decide : assignedOps.Nodup) hr hr' h

/-- A word that meets a row has the row's opcode: every mask covers OP. -/
theorem fieldOP_of_meets_row {r : OpRow} (hr : r ∈ opTable) {w : Word} (h : w &&& r.mask = r.pattern) :
    fieldOP w = fieldOP r.pattern := by
  have hmask : fieldOP r.mask = BitVec.allOnes 8 :=
    (by decide : ∀ r ∈ opTable, fieldOP r.mask = BitVec.allOnes 8) r hr
  rw [← h, fieldOP_and, hmask, BitVec.and_allOnes]

/-- The command a row builds, whatever its fields, is encoded under the row's opcode. -/
theorem fieldOP_encode_build {r : OpRow} (hr : r ∈ opTable) (w : Word) :
    fieldOP (encode (r.build w)) = fieldOP r.pattern := by
  have hrows : ∀ r ∈ opTable, fieldOP (encode (r.build w)) = fieldOP r.pattern := by
    simp only [opTable, List.forall_mem_cons, List.not_mem_nil, false_imp_iff, implies_true, encode, fieldOP_commandWord]
    decide
  exact hrows r hr

/-! ## The decoder answers by the row a word meets -/

theorem OpRow.admits_iff (r : OpRow) (w : Word) : r.admits w = true ↔ w &&& r.mask = r.pattern := beq_iff_eq

/-- What decodes is built by a row the word meets. -/
theorem exists_row_of_decode_ok {w : Word} {i : Instr} (h : decode w = .ok i) :
    ∃ r ∈ opTable, w &&& r.mask = r.pattern ∧ r.build w = i := by
  unfold decode at h
  split at h
  next r hfind =>
    have hadmits : r.admits w = true := List.find?_some (p := fun r : OpRow => r.admits w) hfind
    exact ⟨r, List.mem_of_find?_eq_some hfind, (r.admits_iff w).mp hadmits, Except.ok.inj h⟩
  next => cases h

/-- No command is decoded exactly when the word meets no row. -/
theorem decode_error_iff (w : Word) :
    (∀ r ∈ opTable, w &&& r.mask ≠ r.pattern) ↔ ∃ why, decode w = .error why := by
  constructor
  · intro hnone
    cases h : decode w with
    | error why => exact ⟨why, rfl⟩
    | ok i =>
      obtain ⟨r, hr, hmeets, -⟩ := exists_row_of_decode_ok h
      exact absurd hmeets (hnone r hr)
  · rintro ⟨why, h⟩ r hr hmeets
    unfold decode at h
    split at h
    next => cases h
    next hfind => exact List.find?_eq_none.mp hfind r hr ((r.admits_iff w).mpr hmeets)

/-- A word meets a row exactly when it decodes to the row's command with the fields read from the word: the row that decoded the
word has the opcode of the word and of the command, so it is this row. -/
theorem meets_row_iff_decode {r : OpRow} (hr : r ∈ opTable) (w : Word) :
    w &&& r.mask = r.pattern ↔ decode w = .ok (r.build w) := by
  constructor
  · intro hmeets
    cases h : decode w with
    | error why => exact absurd hmeets ((decode_error_iff w).mpr ⟨why, h⟩ r hr)
    | ok i =>
      obtain ⟨r', hr', hmeets', rfl⟩ := exists_row_of_decode_ok h
      have hop : fieldOP r'.pattern = fieldOP r.pattern :=
        (fieldOP_of_meets_row hr' hmeets').symm.trans (fieldOP_of_meets_row hr hmeets)
      rw [opTable_row_unique hr' hr hop]
  · intro h
    obtain ⟨r', hr', hmeets', hbuild⟩ := exists_row_of_decode_ok h
    have hop : fieldOP r'.pattern = fieldOP r.pattern := by
      rw [← fieldOP_encode_build hr' w, hbuild, fieldOP_encode_build hr w]
    rwa [opTable_row_unique hr' hr hop] at hmeets'

/-- Settles O1: `meets_row_iff_decode` at each of the eight rows, and `decode_error_iff` for the words that meet none. -/
theorem wordsDecodeByMaskAndMatch : Obligations.WordsDecodeByMaskAndMatch := by
  unfold Obligations.WordsDecodeByMaskAndMatch
  intro w
  have hrow : ∀ k : Fin 8, w &&& opTable[k].mask = opTable[k].pattern ↔ decode w = .ok (opTable[k].build w) :=
    fun k => meets_row_iff_decode (List.getElem_mem k.isLt) w
  rw [← byteOrderOf_eq, ← signednessOf_eq, ← wordOrderOf_eq]
  refine ⟨hrow 0, hrow 1, hrow 2, hrow 3, hrow 4, hrow 5, hrow 6, hrow 7, ?_⟩
  simpa only [opTable, List.forall_mem_cons, List.not_mem_nil, false_imp_iff, implies_true, and_true] using decode_error_iff w

end Sys2Proof

/-! # The CRC engine: the statements of 41_crc.md -/

namespace Sys2Proof.Machine

/-! ## The table step and the bitwise step (R100 to R102) -/

/-- Rounds are linear over XOR, as one round is. -/
theorem repeatTimes_crcRound_xor (n : Nat) (x y : Half) :
    repeatTimes crcRound n (x ^^^ y) = repeatTimes crcRound n x ^^^ repeatTimes crcRound n y := by
  induction n generalizing x y with
  | zero => rfl
  | succ n ih => simp only [repeatTimes_succ, crcRound_xor, ih]

/-- Rounds that meet only 0 bits shift. -/
theorem repeatTimes_crcRound_of_low_zero (n : Nat) (q : Half) (h : ∀ i < n, q.getLsbD i = false) :
    repeatTimes crcRound n q = q >>> n := by
  induction n generalizing q with
  | zero => simp
  | succ n ih =>
    have hround : crcRound q = q >>> 1 := if_neg (by simpa using h 0 n.succ_pos)
    have hlow : ∀ i < n, (q >>> 1).getLsbD i = false := fun i hi => by
      rw [BitVec.getLsbD_ushiftRight]
      exact h (1 + i) (by omega)
    rw [repeatTimes_succ, hround, ih _ hlow, ← BitVec.shiftRight_add, Nat.add_comm]

/-- The byte reaches the accumulator's low byte alone: the high byte stays, and what is below it is the table's index (R100). -/
theorem xor_byte_eq_high_xor_index (r : Half) (b : Byte) :
    r ^^^ b.setWidth 16 = (r >>> 8 <<< 8) ^^^ (((r ^^^ b.setWidth 16) &&& 0x00FF).setWidth 8).setWidth 16 := by
  ext i hi
  by_cases hlow : i < 8
  · interval_cases i <;> simp
  · have hb : b.getLsbD i = false := BitVec.getLsbD_of_ge b i (by omega)
    have hr : 8 + (i - 8) = i := by omega
    simp [hlow, hb, hr, BitVec.getLsbD_eq_getElem hi]

/-- Settles O7: eight rounds shift the accumulator's high byte down and turn its low byte, XOR the data byte, into the entry. -/
theorem tableStepIsTheBitwiseStep : Obligations.TableStepIsTheBitwiseStep := by
  unfold Obligations.TableStepIsTheBitwiseStep
  intro r b
  have hhigh : repeatTimes crcRound 8 (r >>> 8 <<< 8) = r >>> 8 := by
    rw [repeatTimes_crcRound_of_low_zero 8 _ fun i hi => by simp [hi]]
    ext i hi
    simpa using BitVec.lt_of_getLsbD (x := r)
  rw [crcStepBitwise, xor_byte_eq_high_xor_index, repeatTimes_crcRound_xor, hhigh, ← tableEntry_eq_rounds, crcStep]

end Sys2Proof.Machine

namespace Sys2Proof

/-! ## The words with a row's opcode (30_encoding.md R79, R80) -/

/-- A word with a row's opcode that does not meet the row decodes to no command: it meets no other row either. -/
theorem decode_error_of_fieldOP {r : OpRow} (hr : r ∈ opTable) {w : Word} (hop : fieldOP w = fieldOP r.pattern)
    (hmeets : w &&& r.mask ≠ r.pattern) : ∃ why, decode w = .error why := by
  refine (decode_error_iff w).mp fun r' hr' hmeets' => ?_
  have hrow : r = r' := opTable_row_unique hr hr' (hop.symm.trans (fieldOP_of_meets_row hr' hmeets'))
  exact hmeets (hrow ▸ hmeets')

end Sys2Proof

namespace Sys2Proof.Machine

/-! ## A CMD write (20_memory.md R59) -/

section CommandWrites
variable {s : State} {w : Word} {rest : List HostEvent}

/-- A CMD write of a legal word runs its command once CMD and LASTOP hold the word (20_memory.md R59). -/
theorem step_command_ok {i : Instr} (h : s.pending = .memWrite s.params.base 4 w :: rest) (hdecode : decode w = .ok i) :
    step s = exec i (s.holding w rest) := by
  rw [step_command s w rest h, runCommand, hdecode]
  rfl

/-- A CMD write of an illegal word ends with IllegalCommand (30_encoding.md R80). -/
theorem step_command_error {why : IllegalWord} (h : s.pending = .memWrite s.params.base 4 w :: rest)
    (hdecode : decode w = .error why) : step s = .next (s.rejecting w rest) := by
  rw [step_command s w rest h, runCommand, hdecode]
  rfl

/-- A CMD write of a word with a row's opcode runs the row's command exactly when the word meets the row. -/
theorem step_command_of_row {r : OpRow} (hr : r ∈ opTable) (h : s.pending = .memWrite s.params.base 4 w :: rest)
    (hop : w.extractLsb' 0 8 = fieldOP r.pattern) :
    step s = if w &&& r.mask = r.pattern then exec (r.build w) (s.holding w rest) else .next (s.rejecting w rest) := by
  split
  next hmeets => exact step_command_ok h ((meets_row_iff_decode hr w).mp hmeets)
  next hmeets =>
    obtain ⟨why, hwhy⟩ := decode_error_of_fieldOP hr hop hmeets
    exact step_command_error h hwhy

end CommandWrites

/-! ## CRC_INIT and CRC_BYTE (R107, R108) -/

theorem exec_crcInit (s : State) : exec .crcInit s = .next { s.ended with crc := 0xFFFF } := rfl

theorem exec_crcByte (s : State) (b : Byte) : exec (.crcByte b) s = .next { s.ended with crc := crcStep s.crc b } := rfl

/-- Settles O9: the row of CRC_INIT admits one word. -/
theorem crcInitSetsTheAccumulator : Obligations.CrcInitSetsTheAccumulator := by
  unfold Obligations.CrcInitSetsTheAccumulator
  refine ⟨exec_crcInit, fun s w rest hpending hop => ?_⟩
  have hrow : opTable[0] ∈ opTable := List.getElem_mem (by decide)
  rw [step_command_of_row hrow hpending hop]
  exact if_congr (row_whole w 0x00000001) rfl rfl

/-- Settles O10: the table step is the bitwise step, and of the words with opcode 0x02 the row of CRC_BYTE asks that bits [23:8]
be 0. -/
theorem crcByteStepsTheAccumulator : Obligations.CrcByteStepsTheAccumulator := by
  unfold Obligations.CrcByteStepsTheAccumulator
  refine ⟨fun s b => ?_, fun s w rest hpending hop => ?_⟩
  · rw [exec_crcByte, tableStepIsTheBitwiseStep]
  · have hrow : opTable[1] ∈ opTable := List.getElem_mem (by decide)
    rw [step_command_of_row hrow hpending hop]
    exact if_congr ((row_crcByte w).trans (and_iff_right hop)) rfl rfl

/-! ## Legal events and their steps (70_reset_and_hazards.md R211) -/

/-- Every readable offset is some register's (20_memory.md R51, R52). -/
theorem exists_regOffset_of_mem_readableOffsets : ∀ off ∈ readableOffsets, ∃ r, off = regOffset r := by
  simp only [readableOffsets, List.forall_mem_cons, List.not_mem_nil, false_imp_iff, implies_true, and_true]
  exact ⟨⟨.cmd, rfl⟩, ⟨.status, rfl⟩, ⟨.crc, rfl⟩, ⟨.arg 0, rfl⟩, ⟨.arg 1, rfl⟩, ⟨.arg 2, rfl⟩, ⟨.arg 3, rfl⟩, ⟨.res 0, rfl⟩,
    ⟨.res 1, rfl⟩, ⟨.frame 0, rfl⟩, ⟨.frame 1, rfl⟩⟩

/-- Every writable offset is CMD's or an operand's (R53). -/
theorem cmd_or_arg_of_mem_writableOffsets : ∀ off ∈ writableOffsets, off = 0 ∨ ∃ n, off = regOffset (.arg n) := by
  decide

/-- A legal event is a read of a register, a CMD write, a write of an operand, or a reset. -/
theorem HostEvent.legal_cases {p : Params} {ev : HostEvent} (h : ev.legal p = true) :
    (∃ r, ev = .memRead (p.base + regOffset r) 4) ∨ (∃ w, ev = .memWrite p.base 4 w) ∨
    (∃ n v, ev = .memWrite (p.base + regOffset (.arg n)) 4 v) ∨ ev = .reset := by
  cases ev with
  | memRead addr size =>
    obtain ⟨⟨rfl, hbase⟩, hoff⟩ : (size = 4 ∧ p.base ≤ addr) ∧ addr - p.base ∈ readableOffsets := by
      simpa [HostEvent.legal] using h
    obtain ⟨r, hr⟩ := exists_regOffset_of_mem_readableOffsets _ hoff
    have haddr : addr = p.base + regOffset r := by omega
    exact .inl ⟨r, by rw [haddr]⟩
  | memWrite addr size v =>
    obtain ⟨⟨rfl, hbase⟩, hoff⟩ : (size = 4 ∧ p.base ≤ addr) ∧ addr - p.base ∈ writableOffsets := by
      simpa [HostEvent.legal] using h
    obtain hcmd | ⟨n, hn⟩ := cmd_or_arg_of_mem_writableOffsets _ hoff
    · have haddr : addr = p.base := by omega
      exact .inr (.inl ⟨v, by rw [haddr]⟩)
    · have haddr : addr = p.base + regOffset (.arg n) := by omega
      exact .inr (.inr (.inl ⟨n, v, by rw [haddr]⟩))
  | reset => exact .inr (.inr (.inr rfl))

section Step
variable {s t : State} {ev : HostEvent} {rest : List HostEvent}

/-- A legal event has a step. -/
theorem exists_step_of_legal (h : s.pending = ev :: rest) (hlegal : ev.legal s.params = true) : ∃ t, step s = .next t := by
  obtain ⟨r, rfl⟩ | ⟨w, rfl⟩ | ⟨n, v, rfl⟩ | rfl := HostEvent.legal_cases hlegal
  · exact ⟨_, step_read h (locate_regOffset s.params r)⟩
  · cases hdecode : decode w with
    | ok i =>
      rw [step_command_ok h hdecode]
      exact exec_next i _
    | error why => exact ⟨_, step_command_error h hdecode⟩
  · exact ⟨_, step_write_operand h (locate_regOffset s.params (.arg n))⟩
  · exact ⟨_, step_cons s _ rest h⟩

theorem exec_pending_params {i : Instr} (h : exec i s = .next t) : t.pending = s.pending ∧ t.params = s.params := by
  obtain ⟨e, rfl⟩ | ⟨c, r0, r1, f0, f1, rfl⟩ := exec_cases i s t h
  · exact ⟨rfl, rfl⟩
  · exact ⟨rfl, rfl⟩

/-- A step takes its event and no other off the list, and moves no parameter (log entries 1 to 3). -/
theorem step_pending_params (h : s.pending = ev :: rest) (hstep : step s = .next t) :
    t.pending = rest ∧ t.params = s.params := by
  obtain ⟨hnil, -⟩ | ⟨ev', rest', hpending, hserved⟩ := step_cases s t hstep
  · simp [h] at hnil
  obtain ⟨rfl, rfl⟩ : ev = ev' ∧ rest = rest' := by simpa [h] using hpending
  obtain ⟨addr, size, r, -, -, rfl⟩ | ⟨addr, size, n, v, -, -, rfl⟩ | ⟨w, i, -, -, hexec⟩ | ⟨w, why, -, -, rfl⟩ | ⟨-, rfl⟩ :=
    hserved
  · simp -- a read
  · simp -- an operand write
  · simpa using exec_pending_params hexec -- a legal command
  · simp -- an illegal word
  · simp -- a reset

/-- A run whose first step answers goes on from there. -/
theorem run_succ (k : Nat) (hstep : step s = .next t) :
    Host.Core.run core (k + 1) s = Host.Core.run core k t := by
  have hcore : core.step s = .next t := hstep
  simp only [Host.Core.run, hcore]

end Step

/-! ## A streamed checksum (R109) -/

/-- The commands other than CRC_INIT and CRC_BYTE leave the accumulator (10_state.md R29). -/
theorem exec_crc_of_other {i : Instr} {s t : State} (hinit : i ≠ .crcInit) (hbyte : ∀ b, i ≠ .crcByte b)
    (h : exec i s = .next t) : t.crc = s.crc := by
  cases i with
  | crcInit => exact absurd rfl hinit
  | crcByte b => exact absurd rfl (hbyte b)
  | encByte => cases h; exact conclude_keeps State.crc s _ _ (fun _ => rfl) fun _ _ => rfl
  | encShort bo sg dec => cases h; exact conclude_keeps State.crc s _ _ (fun _ => rfl) fun _ _ => rfl
  | decShort bo sg dec cnt => cases h; exact conclude_keeps State.crc s _ _ (fun _ => rfl) fun _ _ => rfl
  | decF32 bo wo cnt => cases h; exact conclude_keeps State.crc s _ _ (fun _ => rfl) fun _ _ => rfl
  | buildRdreq => cases h; exact conclude_keeps State.crc s _ _ (fun _ => rfl) fun _ _ => rfl
  | decRdresp cnt => cases h; exact conclude_keeps State.crc s _ _ (fun _ => rfl) fun _ _ => rfl

/-- An event that writes no CMD word feeds no byte. -/
theorem HostEvent.fedByte_of_no_command {p : Params} {ev : HostEvent} (h : ev.commandWord p = none) :
    ev.fedByte p = none := by
  simp [HostEvent.fedByte, h]

/-- A command other than CRC_BYTE feeds no byte. -/
theorem HostEvent.fedByte_of_other {p : Params} {w : Word} {i : Instr} (hdecode : decode w = .ok i)
    (hbyte : ∀ b, i ≠ .crcByte b) : (HostEvent.memWrite p.base 4 w).fedByte p = none := by
  simp only [HostEvent.fedByte, HostEvent.commandWord_memWrite_base, Option.map_some, hdecode]
  split
  next b hb => exact absurd (Except.ok.inj (Option.some.inj hb)) (hbyte b)
  next => rfl

section Stream
variable {s t : State} {ev : HostEvent} {rest : List HostEvent}

/-- An event of a stream steps the accumulator with the byte it feeds, if it feeds one, and otherwise leaves it. -/
theorem step_crc_of_keepsStream (h : s.pending = ev :: rest) (hkeeps : ev.keepsStream s.params = true)
    (hstep : step s = .next t) : t.crc = (ev.fedByte s.params).elim s.crc (crcStep s.crc) := by
  obtain ⟨hnil, -⟩ | ⟨ev', rest', hpending, hserved⟩ := step_cases s t hstep
  · simp [h] at hnil
  obtain ⟨rfl, rfl⟩ : ev = ev' ∧ rest = rest' := by simpa [h] using hpending
  obtain ⟨addr, size, r, rfl, -, rfl⟩ | ⟨addr, size, n, v, rfl, hloc, rfl⟩ | ⟨w, i, rfl, hdecode, hexec⟩ |
    ⟨w, why, rfl, hdecode, rfl⟩ | ⟨rfl, -⟩ := hserved
  · rfl -- a read
  · simp [HostEvent.fedByte_of_no_command (HostEvent.commandWord_memWrite_arg v hloc)] -- an operand write
  · -- a legal command: no CRC_INIT
    have hinit : i ≠ .crcInit := by
      rintro rfl
      simp [HostEvent.keepsStream, hdecode] at hkeeps
    by_cases hbyte : ∃ b, i = .crcByte b
    · obtain ⟨b, rfl⟩ := hbyte
      cases hexec
      simp [HostEvent.fedByte, hdecode]
    · have hother : ∀ b, i ≠ .crcByte b := not_exists.mp hbyte
      simpa [HostEvent.fedByte_of_other hdecode hother] using exec_crc_of_other hinit hother hexec
  · simp [HostEvent.fedByte, hdecode] -- an illegal word
  · simp [HostEvent.keepsStream] at hkeeps -- a reset

/-- CRC_INIT and reset start a stream: the accumulator holds the initial value (R103, R107, 10_state.md R29). -/
theorem step_crc_of_start (h : s.pending = ev :: rest) (hstart : ev = .memWrite s.params.base 4 0x00000001 ∨ ev = .reset)
    (hstep : step s = .next t) : t.crc = 0xFFFF := by
  obtain rfl | rfl := hstart
  · rw [step_command_ok h (i := .crcInit) (by decide), exec_crcInit] at hstep
    cases hstep
    rfl
  · rw [step_cons s _ rest h] at hstep
    cases hstep
    rfl

theorem legal_of_start {p : Params} (hstart : ev = .memWrite p.base 4 0x00000001 ∨ ev = .reset) : ev.legal p = true := by
  obtain rfl | rfl := hstart
  · simp [HostEvent.legal, writableOffsets]
  · rfl

end Stream

/-- A run over the events of a stream folds the step over the bytes they feed. -/
theorem run_stream (s : State) (evs rest : List HostEvent) (hpending : s.pending = evs ++ rest)
    (hevs : ∀ ev ∈ evs, ev.legal s.params = true ∧ ev.keepsStream s.params = true) :
    ∃ t, Host.Core.run core evs.length s = .next t ∧ t.pending = rest ∧
      t.crc = (evs.filterMap fun ev => ev.fedByte s.params).foldl crcStep s.crc := by
  induction evs generalizing s with
  | nil => exact ⟨s, rfl, hpending, rfl⟩
  | cons ev evs ih =>
    obtain ⟨hlegal, hkeeps⟩ := hevs ev List.mem_cons_self
    obtain ⟨u, hstep⟩ := exists_step_of_legal hpending hlegal
    obtain ⟨hrest, hparams⟩ := step_pending_params hpending hstep
    obtain ⟨t, hrun, ht, hcrc⟩ := ih u hrest fun e he => hparams ▸ hevs e (List.mem_cons_of_mem ev he)
    refine ⟨t, (run_succ evs.length hstep).trans hrun, ht, ?_⟩
    rw [hcrc, hparams, step_crc_of_keepsStream hpending hkeeps hstep]
    cases hfed : ev.fedByte s.params <;> simp [hfed]

/-- The bytes of the CRC read are the accumulator's wire bytes (R105, 20_memory.md R52). -/
theorem readReg_crc_bytes (s : State) :
    [(s.readReg .crc).extractLsb' 0 8, (s.readReg .crc).extractLsb' 8 8] = crcBytes s.crc := by
  simp [State.readReg, crcBytes, BitVec.extractLsb'_setWidth_of_le]

/-- Settles O11: the start sets the initial value, and the run over the stream folds the step from there. -/
theorem streamedChecksumIsTheChecksum : Obligations.StreamedChecksumIsTheChecksum := by
  unfold Obligations.StreamedChecksumIsTheChecksum
  intro s start evs rest hstart hpending hevs
  obtain ⟨u, hstep⟩ := exists_step_of_legal hpending (legal_of_start hstart)
  obtain ⟨hrest, hparams⟩ := step_pending_params hpending hstep
  obtain ⟨t, hrun, ht, hfold⟩ := run_stream u evs rest hrest (hparams ▸ hevs)
  have hcrc : t.crc = checksum (evs.filterMap fun ev => ev.fedByte s.params) := by
    rw [hfold, hparams, step_crc_of_start hpending hstart hstep, checksum, crcInitial]
  exact ⟨t, (run_succ evs.length hstep).trans hrun, ht, hcrc, hcrc ▸ readReg_crc_bytes t⟩

end Sys2Proof.Machine

/-! # The value codec: the statements of 42_codec.md -/

namespace Sys2Proof.Machine

/-! ## The values of floating-point patterns (R125, R143) -/

/-- `(−1)^s × n × 2^e`, as the fraction the model computes with. -/
theorem toRat_ofScaled_signedBy (s : BitVec 1) (n : Nat) (e : ℤ) :
    (Ratio.ofScaled (signedBy s n) e).toRat = (-1) ^ s.toNat * n * (2 : ℚ) ^ e := by
  have hsigned : (signedBy s n : ℚ) = (-1) ^ s.toNat * n := by
    obtain rfl | rfl := BitVec.eq_zero_or_eq_one s <;> simp [signedBy]
  rw [Ratio.toRat_ofScaled, hsigned]

/-- A sign bit picked out of a pattern is 0 where the bit is clear. -/
theorem extractLsb'_one_eq_zero_iff {n : Nat} (p : BitVec n) (i : Nat) : p.extractLsb' i 1 = 0 ↔ p.getLsbD i = false := by
  simp [BitVec.eq_of_getLsbD_eq_iff]

/-- The finite values of both formats, by sign, exponent field and fraction field: wherever the rule's formula gives a
rational, the model's gives a fraction that stands for it. -/
theorem exists_finite_of_fields {s : BitVec 1} {e f top m : Nat} {lo hi : ℤ} {special : FpValue} {v : ℚ}
    (h : (if e = top then none
      else if e = 0 then some ((-1) ^ s.toNat * f * (2 : ℚ) ^ lo)
      else some ((-1) ^ s.toNat * (2 ^ m + f) * (2 : ℚ) ^ hi)) = some v) :
    ∃ q, (if e = top then special
      else if e = 0 then .finite (Ratio.ofScaled (signedBy s f) lo)
      else .finite (Ratio.ofScaled (signedBy s (2 ^ m + f)) hi)) = .finite q ∧ 0 < q.den ∧ q.toRat = v := by
  by_cases hspecial : e = top
  · simp [hspecial] at h
  rw [if_neg hspecial] at h ⊢
  by_cases hsubnormal : e = 0
  · rw [if_pos hsubnormal] at h ⊢
    cases h
    exact ⟨_, rfl, Ratio.ofScaled_den_pos _ _, toRat_ofScaled_signedBy _ _ _⟩
  · rw [if_neg hsubnormal] at h ⊢
    cases h
    exact ⟨_, rfl, Ratio.ofScaled_den_pos _ _, by rw [toRat_ofScaled_signedBy]; push_cast; rfl⟩

/-- The infinities by sign, and NaN: from the fraction and the sign bit as fields, and as bits of the pattern. -/
theorem special_by_fields {n m : Nat} (p : BitVec n) (i : Nat) (f : BitVec m) :
    (if f.toNat = 0 then (if p.extractLsb' i 1 = 0 then FpValue.posInf else .negInf) else .nan) =
      if f ≠ 0 then .nan else if p.getLsbD i then .negInf else .posInf := by
  have hf : f.toNat = 0 ↔ f = 0 := BitVec.toNat_inj (y := 0#m)
  by_cases hfrac : f.toNat = 0
  · rw [if_pos hfrac, if_neg (not_not.mpr (hf.mp hfrac))]
    simp only [extractLsb'_one_eq_zero_iff]
    cases p.getLsbD i <;> rfl
  · rw [if_neg hfrac, if_pos (mt hf.mpr hfrac)]

/-- Where R125 gives a rational, b64val is a fraction that stands for it. -/
theorem b64val_of_b64Rat {p : BitVec 64} {v : ℚ} (h : b64Rat p = some v) :
    ∃ q, b64val p = .finite q ∧ 0 < q.den ∧ q.toRat = v :=
  exists_finite_of_fields (s := p.extractLsb' 63 1) (m := 52) h

/-- The patterns with E = 2047 have no rational, and are the only ones (R125). -/
theorem b64Rat_eq_none_iff (p : BitVec 64) : b64Rat p = none ↔ p.extractLsb' 52 11 = 2047 := by
  have hbits : (p.extractLsb' 52 11).toNat = 2047 ↔ p.extractLsb' 52 11 = 2047 := BitVec.toNat_inj (y := 2047#11)
  rw [← hbits]
  simp only [b64Rat]
  split_ifs with hspecial hsubnormal
  · exact iff_of_true rfl hspecial
  · exact iff_of_false not_false hspecial
  · exact iff_of_false not_false hspecial

theorem b64val_of_special {p : BitVec 64} (h : p.extractLsb' 52 11 = 2047) :
    b64val p = if p.extractLsb' 0 52 ≠ 0 then .nan else if p.getLsbD 63 then .negInf else .posInf := by
  have hspecial : (p.extractLsb' 52 11).toNat = 2047 := by rw [h]; rfl
  rw [← special_by_fields]
  exact if_pos hspecial

/-- Settles O17: the finite patterns by their fields, and those with E = 2047. -/
theorem binary64ValueIsTheRulesRational : Obligations.Binary64ValueIsTheRulesRational := by
  unfold Obligations.Binary64ValueIsTheRulesRational
  exact fun p => ⟨fun v => b64val_of_b64Rat, b64val_of_special⟩

/-- Where R143 gives a rational, f32val is a fraction that stands for it. -/
theorem f32val_of_f32Rat {p : Word} {v : ℚ} (h : f32Rat p = some v) :
    ∃ q, f32val p = .finite q ∧ 0 < q.den ∧ q.toRat = v :=
  exists_finite_of_fields (s := p.extractLsb' 31 1) (m := 23) h

theorem f32val_of_special {p : Word} (h : p.extractLsb' 23 8 = 255) :
    f32val p = if p.extractLsb' 0 23 ≠ 0 then .nan else if p.getLsbD 31 then .negInf else .posInf := by
  have hspecial : (p.extractLsb' 23 8).toNat = 255 := by rw [h]; rfl
  rw [← special_by_fields]
  exact if_pos hspecial

theorem f32NanIsQuiet_iff (p : Word) : f32NanIsQuiet p = true ↔ p.extractLsb' 22 1 = 1 := by
  simp [f32NanIsQuiet, BitVec.eq_of_getLsbD_eq_iff]

/-- Settles O19: the finite patterns by their fields, those with E = 255, and the NaN's own bit. -/
theorem binary32ValueIsTheRulesRational : Obligations.Binary32ValueIsTheRulesRational := by
  unfold Obligations.Binary32ValueIsTheRulesRational
  exact fun p => ⟨fun v => f32val_of_f32Rat, f32val_of_special, fun _ => f32NanIsQuiet_iff p⟩

/-! ## Rounding to binary64 (R127) -/

/-- `a / 2^e`, as the two naturals that the model's nearestEven takes. -/
theorem Ratio.abs_toRat_div_zpow (q : Ratio) (e : ℤ) :
    |q.toRat| / (2 : ℚ) ^ e = ((q.num.natAbs * 2 ^ (-e).toNat : ℕ) : ℚ) / ((q.den * 2 ^ e.toNat : ℕ) : ℚ) := by
  rw [Ratio.abs_toRat, two_zpow_eq]
  push_cast
  field_simp

theorem Ratio.roundedSignificand_spec (q : Ratio) (hd : 0 < q.den) :
    IsNearestEven (|q.toRat| / (2 : ℚ) ^ q.lastPlace) q.roundedSignificand := by
  rw [q.abs_toRat_div_zpow]
  exact nearestEven_spec _ _ (by positivity)

theorem Ratio.sign_toRat (q : Ratio) (hd : 0 < q.den) : SignType.sign q.toRat = SignType.sign q.num := by
  have hd' : (0 : ℚ) < q.den := by exact_mod_cast hd
  obtain hneg | hzero | hpos := lt_trichotomy q.num 0
  · rw [sign_neg hneg, Ratio.toRat, sign_neg (div_neg_of_neg_of_pos (by exact_mod_cast hneg) hd')]
  · simp [Ratio.toRat, hzero]
  · rw [sign_pos hpos, Ratio.toRat, sign_pos (div_pos (by exact_mod_cast hpos) hd')]

theorem Ratio.toRat_pos_iff (q : Ratio) (hd : 0 < q.den) : 0 < q.toRat ↔ 0 < q.num := by
  rw [← sign_eq_one_iff, q.sign_toRat hd, sign_eq_one_iff]

/-- Settles O18: the model's k is the rule's, its M is nearest to `a / 2^e`, and its overflow test is the rule's. -/
theorem roundingToBinary64FollowsTheRule : Obligations.RoundingToBinary64FollowsTheRule := by
  unfold Obligations.RoundingToBinary64FollowsTheRule
  intro q hd
  by_cases hn : q.num = 0
  · exact .inl ⟨(q.toRat_eq_zero_iff hd).mpr hn, _, if_pos hn, by simp [Ratio.toRat]⟩
  obtain ⟨hlow, hhigh⟩ := q.floorLog2_spec hd hn
  refine .inr ⟨(q.toRat_eq_zero_iff hd).not.mpr hn, q.floorLog2, q.roundedSignificand, hlow, hhigh,
    q.roundedSignificand_spec hd, ?_⟩
  have hlarge := Ratio.tooLarge_iff _ (Ratio.ofScaled_den_pos q.roundedSignificand q.lastPlace)
  rw [Ratio.toRat_ofScaled] at hlarge
  rw [rne64, if_neg hn]
  split
  next hbound => rw [if_pos (hlarge.mpr hbound)]; simp only [q.toRat_pos_iff hd]
  next hbound =>
    rw [if_neg (mt hlarge.mp hbound)]
    refine ⟨_, rfl, ?_⟩
    rw [Ratio.toRat_ofScaled, q.sign_toRat hd, Int.cast_mul, Int.sign_eq_sign, SignType.intCast_cast]
    rfl

/-! ## How the codec's commands end (60_exceptions.md R182, R183) -/

/-- A codec command that completes with the word `v` leaves RES0 at `v` and ERR at 0. -/
theorem State.complete_setRes0 (s : State) (v : Word) : (s.setRes0 v).complete = { s.ended with res0 := v } := rfl

theorem State.raise_eq_failed (s : State) (e : ErrorKind) : s.raise e = s.failed e.code := rfl

/-! ## ENC_BYTE (R121) -/

/-- One byte packed into a word is `zext_32` of it. -/
theorem packWord_singleton (b : Byte) : packWord [b] = b.setWidth 32 := by
  apply BitVec.eq_of_toNat_eq
  simp [packWord_toNat]
  omega

theorem exec_encByte_of_fits (s : State) (h : 0 ≤ s.arg0.toInt ∧ s.arg0.toInt ≤ 255) :
    exec .encByte s = .next { s.ended with res0 := (BitVec.ofInt 8 s.arg0.toInt).setWidth 32 } := by
  rw [exec, execEncByte, encodeByte_of_fits _ h, conclude_ok, packWord_singleton, State.complete_setRes0]

theorem exec_encByte_of_not_fits (s : State) (h : ¬(0 ≤ s.arg0.toInt ∧ s.arg0.toInt ≤ 255)) :
    exec .encByte s = .next (s.failed 1) := by
  rw [exec, execEncByte, encodeByte_of_not_fits _ h, conclude_error, State.raise_eq_failed, ErrorKind.code]

/-- Settles O12: encodeByte by its two cases, and the row of ENC_BYTE, which admits one word. -/
theorem encByteStoresTheByteOrFails : Obligations.EncByteStoresTheByteOrFails := by
  unfold Obligations.EncByteStoresTheByteOrFails
  refine ⟨fun s => ⟨exec_encByte_of_fits s, exec_encByte_of_not_fits s⟩, fun s w rest hpending hop => ?_⟩
  have hrow : opTable[2] ∈ opTable := List.getElem_mem (by decide)
  rw [step_command_of_row hrow hpending hop]
  exact if_congr (row_whole w 0x00000010) rfl rfl

/-! ## ENC_SHORT (R122, R123, R128) -/

/-- The model's scaled integer is the rule's, in either arithmetic (R123). -/
theorem scaledTo_scaled (mode : ScaleArith) (q : Ratio) (hd : 0 < q.den) (d : Nat) :
    ScaledTo mode q.toRat d (scaled mode q d) := by
  have hproduct : (q.timesNat (10 ^ d)).toRat = q.toRat * 10 ^ d := by
    rw [Ratio.toRat_timesNat, Nat.cast_pow, Nat.cast_ofNat]
  cases mode with
  | binary64Rne =>
    refine ⟨rne64 (q.timesNat (10 ^ d)), hproduct ▸ roundingToBinary64FollowsTheRule _ hd, ?_⟩
    cases hrounded : rne64 (q.timesNat (10 ^ d)) with
    | finite z => simp only [scaled, hrounded, z.trunc_eq_truncRat (rne64_den_pos _ z hrounded)]
    | posInf => simp only [scaled, hrounded]
    | negInf => simp only [scaled, hrounded]
  | exact =>
    have htrunc := (q.timesNat (10 ^ d)).trunc_eq_truncRat hd
    exact congrArg some (htrunc.trans (congrArg truncRat hproduct))

theorem inShortRange_iff (sg : Signedness) (n : ℤ) : inShortRange sg n = true ↔ ShortRange sg n := by
  cases sg <;> simp [inShortRange, ShortRange]

/-- NaN and the infinities fail (R126). -/
theorem encodeShort_of_b64Rat_eq_none {x : BitVec 64} (h : b64Rat x = none) (mode : ScaleArith) (d : Nat) (bo : ByteOrder)
    (sg : Signedness) : encodeShort mode x d bo sg = .error .rangeError := by
  unfold encodeShort
  rw [b64val_of_special ((b64Rat_eq_none_iff x).mp h)]
  split_ifs <;> rfl

section Finite
variable {mode : ScaleArith} {x : BitVec 64} {q : Ratio} {d : Nat} (hfinite : b64val x = .finite q)
include hfinite

/-- A finite value that scales to an integer is packed where the integer fits (R122). -/
theorem encodeShort_of_scaled {n : ℤ} (hscaled : scaled mode q d = some n) (bo : ByteOrder) (sg : Signedness) :
    encodeShort mode x d bo sg = packShort sg bo n := by
  simp only [encodeShort, hfinite, hscaled]

theorem encodeShort_of_overflow (hscaled : scaled mode q d = none) (bo : ByteOrder) (sg : Signedness) :
    encodeShort mode x d bo sg = .error .rangeError := by
  simp only [encodeShort, hfinite, hscaled]

end Finite

section Exec
variable {s : State} {bo : ByteOrder} {sg : Signedness} {dec : Nat}

theorem exec_encShort_of_ok {bs : List Byte}
    (h : encodeShort s.params.scaleArith (s.arg1 ++ s.arg0) dec bo sg = .ok bs) :
    exec (.encShort bo sg dec) s = .next { s.ended with res0 := packWord bs } := by
  rw [exec, execEncShort, State.operand64, h, conclude_ok, State.complete_setRes0]

theorem exec_encShort_of_error {e : ErrorKind}
    (h : encodeShort s.params.scaleArith (s.arg1 ++ s.arg0) dec bo sg = .error e) :
    exec (.encShort bo sg dec) s = .next (s.failed 1) := by
  rw [exec, execEncShort, State.operand64, h, conclude_error, State.raise_eq_failed, encodeShort_error _ _ _ _ _ _ h,
    ErrorKind.code]

end Exec

/-- Settles O13: S is what the model's scaled gives, which is the rule's; then encodeShort by its cases, and the row of
ENC_SHORT. -/
theorem encShortStoresTheScaledIntegerOrFails : Obligations.EncShortStoresTheScaledIntegerOrFails := by
  unfold Obligations.EncShortStoresTheScaledIntegerOrFails
  refine ⟨fun s bo sg dec => ⟨fun hspecial => ?_, fun v hv => ?_⟩, fun s w rest hpending hop => ?_⟩
  · exact exec_encShort_of_error (encodeShort_of_b64Rat_eq_none hspecial _ dec bo sg)
  · obtain ⟨q, hfinite, hd, rfl⟩ := b64val_of_b64Rat hv
    refine ⟨_, scaledTo_scaled s.params.scaleArith q hd dec, fun n hscaled hrange => ?_, fun n hscaled hrange => ?_,
      fun hscaled => ?_⟩
    · have hpacked := (encodeShort_of_scaled hfinite hscaled bo sg).trans
        (packShort_of_fits sg bo n ((inShortRange_iff sg n).mpr hrange))
      rw [exec_encShort_of_ok hpacked]
      cases bo <;> rw [pack16, packWord_pair]
    · have hfails := packShort_of_not_fits sg bo n (Bool.eq_false_iff.mpr (mt (inShortRange_iff sg n).mp hrange))
      exact exec_encShort_of_error ((encodeShort_of_scaled hfinite hscaled bo sg).trans hfails)
    · exact exec_encShort_of_error (encodeShort_of_overflow hfinite hscaled bo sg)
  · have hrow : opTable[3] ∈ opTable := List.getElem_mem (by decide)
    rw [step_command_of_row hrow hpending hop, ← byteOrderOf_eq, ← signednessOf_eq]
    exact if_congr ((row_encShort w).trans (and_iff_right hop)) rfl rfl

/-! ## DEC_SHORT (R130) -/

/-- `bits_32` of the integer a 16-bit unit stands for extends the unit as SG says (R129, R130). -/
theorem ofInt_shortInt (sg : Signedness) (u : Half) :
    BitVec.ofInt 32 (shortInt sg u) = (match sg with
      | .unsigned => u.setWidth 32
      | .signed => u.signExtend 32) := by
  cases sg with
  | unsigned => exact (BitVec.ofInt_natCast 32 u.toNat).trans (BitVec.ofNat_toNat 32 u)
  | signed => rfl

/-- `zext_32(bits_4(d))` (R130). -/
theorem setWidth_ofNat_four (d : Nat) : (BitVec.ofNat 4 d).setWidth 32 = BitVec.ofNat 32 (d % 16) := by
  apply BitVec.eq_of_toNat_eq
  simp

theorem exec_decShort_two (s : State) (bo : ByteOrder) (sg : Signedness) (dec : Nat) :
    exec (.decShort bo sg dec 2) s = .next { s.ended with
      res0 := BitVec.ofInt 32 (shortInt sg (unpack16 (s.arg0.extractLsb' 0 8) (s.arg0.extractLsb' 8 8) bo))
      res1 := BitVec.ofNat 32 (dec % 16) } := by
  rw [exec, execDecShort, operandBytes_two, decodeShort, conclude_ok, setWidth_ofNat_four]
  rfl

theorem exec_decShort_of_cnt_ne_two (s : State) (bo : ByteOrder) (sg : Signedness) (dec : Nat) {cnt : Nat} (h : cnt ≠ 2) :
    exec (.decShort bo sg dec cnt) s = .next (s.failed 2) := by
  have hlength : (s.operandBytes cnt).length ≠ 2 := by rwa [operandBytes_length]
  rw [exec, execDecShort, decodeShort_of_length _ _ _ _ hlength, conclude_error, State.raise_eq_failed, ErrorKind.code]

/-- Settles O14: the two bytes joined in either order and extended in either way, and the row of DEC_SHORT. -/
theorem decShortStoresTheIntegerOrFails : Obligations.DecShortStoresTheIntegerOrFails := by
  unfold Obligations.DecShortStoresTheIntegerOrFails
  refine ⟨fun s bo sg dec => ?_, fun s bo sg dec cnt h => exec_decShort_of_cnt_ne_two s bo sg dec h,
    fun s w rest hpending hop => ?_⟩
  · have hlow : s.arg0.extractLsb' 8 8 ++ s.arg0.extractLsb' 0 8 = s.arg0.extractLsb' 0 16 :=
      BitVec.extractLsb'_append_extractLsb'_eq_extractLsb' rfl
    rw [exec_decShort_two, ofInt_shortInt, ← hlow]
    cases bo <;> cases sg <;> rfl
  · have hrow : opTable[4] ∈ opTable := List.getElem_mem (by decide)
    rw [step_command_of_row hrow hpending hop, ← byteOrderOf_eq, ← signednessOf_eq]
    exact if_congr ((row_decShort w).trans (and_iff_right hop)) rfl rfl

/-! ## DEC_F32 (R141, R142) -/

@[simp] theorem swapBytes_big (v : Half) : swapBytes .big v = v := rfl

/-- `{v[7:0], v[15:8]}` of the register `{A, B}` (R140). -/
theorem swapBytes_little_append (A B : Byte) : swapBytes .little (A ++ B) = B ++ A := by
  rw [swapBytes, BitVec.extractLsb'_append_eq_right, BitVec.extractLsb'_append_eq_left]

/-- Two registers, each by its two bytes, are one word by its four. -/
theorem append_registers (A B C D : Byte) : ((A ++ B : Half) ++ (C ++ D : Half) : Word) = A ++ B ++ C ++ D :=
  (BitVec.append_assoc (x₁ := A ++ B) (x₂ := C) (x₃ := D)).symm

/-- R141's table: `{sw(hi), sw(lo)}` of the registers `{A, B}` and `{C, D}`, by bytes. -/
theorem assemble32_orders (A B C D : Byte) :
    assemble32 .big .big (A ++ B) (C ++ D) = A ++ B ++ C ++ D ∧
    assemble32 .big .little (A ++ B) (C ++ D) = C ++ D ++ A ++ B ∧
    assemble32 .little .big (A ++ B) (C ++ D) = B ++ A ++ D ++ C ∧
    assemble32 .little .little (A ++ B) (C ++ D) = D ++ C ++ B ++ A := by
  simp only [assemble32, swapBytes_big, swapBytes_little_append]
  exact ⟨append_registers A B C D, append_registers C D A B, append_registers B A D C, append_registers D C B A⟩

/-- The register pair is ARG0's halves, the low one first (10_state.md R37). -/
theorem exec_decF32_two (s : State) (r0 r1 : Half) (h : s.arg0 = r1 ++ r0) (bo : ByteOrder) (wo : WordOrder) :
    exec (.decF32 bo wo 2) s = .next { s.ended with res0 := assemble32 bo wo r0 r1 } := by
  have hlow : s.arg0.extractLsb' 0 16 = r0 := by rw [h]; exact BitVec.extractLsb'_append_eq_right
  have hhigh : s.arg0.extractLsb' 16 16 = r1 := by rw [h]; exact BitVec.extractLsb'_append_eq_left
  rw [exec, execDecF32, operandRegs_two, hlow, hhigh, decodeFloat32, conclude_ok, State.complete_setRes0]

theorem exec_decF32_of_cnt_ne_two (s : State) (bo : ByteOrder) (wo : WordOrder) {cnt : Nat} (h : cnt ≠ 2) :
    exec (.decF32 bo wo cnt) s = .next (s.failed 2) := by
  have hlength : (s.operandRegs cnt).length ≠ 2 := by rwa [operandRegs_length]
  rw [exec, execDecF32, decodeFloat32_of_length _ _ _ hlength, conclude_error, State.raise_eq_failed, ErrorKind.code]

/-- Settles O15: each order puts two registers, swapped or not, one before the other; and the row of DEC_F32. -/
theorem decF32AssemblesTheFourOrders : Obligations.DecF32AssemblesTheFourOrders := by
  unfold Obligations.DecF32AssemblesTheFourOrders
  refine ⟨fun s A B C D h => ?_, fun s bo wo cnt h => exec_decF32_of_cnt_ne_two s bo wo h,
    fun s w rest hpending hop => ?_⟩
  · have hhalves : s.arg0 = (C ++ D) ++ (A ++ B) := h.trans (append_registers C D A B).symm
    have hexec := exec_decF32_two s (A ++ B) (C ++ D) hhalves
    obtain ⟨hbb, hbl, hlb, hll⟩ := assemble32_orders A B C D
    rw [← hbb, ← hbl, ← hlb, ← hll]
    exact ⟨hexec .big .big, hexec .big .little, hexec .little .big, hexec .little .little⟩
  · have hrow : opTable[5] ∈ opTable := List.getElem_mem (by decide)
    rw [step_command_of_row hrow hpending hop, ← byteOrderOf_eq, ← wordOrderOf_eq]
    exact if_congr ((row_decF32 w).trans (and_iff_right hop)) rfl rfl

/-! ## The round trip (R132) -/

/-- An integer is nearest to itself alone. -/
theorem IsNearestEven.eq_of_intCast {m M : ℤ} (h : IsNearestEven m M) : M = m := by
  have hclose : |(m : ℚ) - M| < 1 := by
    obtain hlt | ⟨heq, -⟩ := h <;> linarith
  have hint : |m - M| < 1 := by exact_mod_cast hclose
  have hzero := Int.abs_lt_one_iff.mp hint
  omega

/-- An integer is a whole number of places that are no higher than the units. -/
theorem intCast_div_two_zpow (m : ℤ) {e : ℤ} (he : e ≤ 0) :
    (m : ℚ) / (2 : ℚ) ^ e = ((m * 2 ^ (-e).toNat : ℤ) : ℚ) := by
  rw [two_zpow_eq, Int.toNat_of_nonpos he]
  push_cast
  simp

/-- Rounding an integer to a place no higher than the units is exact. -/
theorem IsNearestEven.mul_two_zpow_eq {m M e : ℤ} (he : e ≤ 0) (h : IsNearestEven ((m : ℚ) / (2 : ℚ) ^ e) M) :
    (M : ℚ) * (2 : ℚ) ^ e = m := by
  rw [intCast_div_two_zpow m he] at h
  rw [h.eq_of_intCast, ← intCast_div_two_zpow m he]
  exact div_mul_cancel₀ _ (by positivity)

/-- An integer below `2^53` rounds to itself: its last place is no higher than the units (R127). -/
theorem RoundsTo.eq_of_intCast {n : ℤ} (hn : |n| < 2 ^ 53) {r : Rounded} (h : RoundsTo n r) :
    ∃ z, r = .finite z ∧ z.toRat = n := by
  obtain ⟨hzero, z, rfl, hz⟩ | ⟨-, k, M, hlow, -, hnearest, hresult⟩ := h
  · exact ⟨z, rfl, hz.trans hzero.symm⟩
  have hnRat : |(n : ℚ)| < 2 ^ (53 : ℤ) := by exact_mod_cast hn
  have hk : k < 53 := (zpow_lt_zpow_iff_right₀ one_lt_two).mp (hlow.trans_lt hnRat)
  have he : max (k - 52) (-1074) ≤ 0 := by omega
  generalize max (k - 52) (-1074) = e at he hnearest hresult
  have hM : (M : ℚ) * (2 : ℚ) ^ e = |(n : ℚ)| := by
    rw [← Int.cast_abs] at hnearest ⊢
    exact hnearest.mul_two_zpow_eq he
  have hfits : ¬overflowBoundRat ≤ |(n : ℚ)| :=
    not_le.mpr (hnRat.trans (zpow_lt_zpow_right₀ one_lt_two (by decide)))
  rw [hM, if_neg hfits] at hresult
  obtain ⟨z, hr, hz⟩ := hresult
  exact ⟨z, hr, by rw [hz, mul_assoc, hM, sign_mul_abs]⟩

theorem truncRat_intCast (n : ℤ) : truncRat n = n := by
  simp [truncRat]

/-- With no decimals such an integer is its own scaled integer, in either arithmetic (R123). -/
theorem ScaledTo.eq_of_intCast {mode : ScaleArith} {n : ℤ} (hn : |n| < 2 ^ 53) {S : Option ℤ} (h : ScaledTo mode n 0 S) :
    S = some n := by
  cases mode with
  | binary64Rne =>
    obtain ⟨r, hrounds, rfl⟩ := h
    rw [pow_zero, mul_one] at hrounds
    obtain ⟨z, rfl, hz⟩ := hrounds.eq_of_intCast hn
    simp only [hz, truncRat_intCast]
  | exact => simpa [ScaledTo, truncRat_intCast] using h

/-- A 16-bit unit in the sign SG selects stands for the integer it was made of (R122, R129). -/
theorem shortInt_ofInt {sg : Signedness} {n : ℤ} (h : ShortRange sg n) : shortInt sg (BitVec.ofInt 16 n) = n := by
  cases sg with
  | unsigned =>
    obtain ⟨hlow, hhigh⟩ := h
    rw [shortInt, BitVec.toNat_ofInt]
    omega
  | signed =>
    obtain ⟨hlow, hhigh⟩ := h
    exact BitVec.toInt_ofInt_eq_self (by decide) hlow (by omega)

theorem abs_lt_of_shortRange {sg : Signedness} {n : ℤ} (h : ShortRange sg n) : |n| < 2 ^ 53 := by
  cases sg with
  | unsigned => obtain ⟨hlow, hhigh⟩ := h; rw [abs_lt]; omega
  | signed => obtain ⟨hlow, hhigh⟩ := h; rw [abs_lt]; omega

/-- The bytes of an integer in range decode to it (R122, R129). -/
theorem decodeShort_pack16_ofInt {sg : Signedness} {n : ℤ} (h : ShortRange sg n) (bo : ByteOrder) (d : Nat) :
    decodeShort (pack16 (BitVec.ofInt 16 n) bo) d bo sg = .ok (n, d) := by
  rw [decodeShort_pack16, shortInt_ofInt h]

/-- Settles O16: what encodeShort packed lies in the range in which packing loses nothing; and an integer in that range is
below `2^53`, so that no arithmetic rounds it. -/
theorem shortRoundTripRecoversTheScaledInteger : Obligations.ShortRoundTripRecoversTheScaledInteger := by
  unfold Obligations.ShortRoundTripRecoversTheScaledInteger
  refine fun mode x bo sg => ⟨fun d bs hencode => ?_, fun n hx hrange => ?_⟩
  · obtain ⟨v, n, hfinite, hscaled, hrange, rfl⟩ := encodeShort_ok mode x d bo sg bs hencode
    exact ⟨v, n, hfinite, hscaled, decodeShort_pack16_ofInt ((inShortRange_iff sg n).mp hrange) bo d⟩
  · obtain ⟨q, hfinite, hd, hq⟩ := b64val_of_b64Rat hx
    have hscaled : scaled mode q 0 = some n :=
      (hq ▸ scaledTo_scaled mode q hd 0).eq_of_intCast (abs_lt_of_shortRange hrange)
    have hpacked := (encodeShort_of_scaled hfinite hscaled bo sg).trans
      (packShort_of_fits sg bo n ((inShortRange_iff sg n).mpr hrange))
    exact ⟨_, hpacked, decodeShort_pack16_ofInt hrange bo 0⟩

end Sys2Proof.Machine

/-! # The frame builder and validator: the statements of 43_frame.md -/

namespace Sys2Proof.Machine

/-! ## DEC_RDRESP (R165, R166) -/

/-- A response's value in the orders of R165: register 1 is the high word, and no bytes are exchanged. -/
theorem decodeReadResponse_pair (r0 r1 : Half) : decodeReadResponse [r0, r1] = .ok (r1 ++ r0) := rfl

/-- No register is a read error, not the format error that decodeFloat32 would give (R165, 60_exceptions.md R186). -/
theorem decodeReadResponse_nil : decodeReadResponse [] = .error .readError := rfl

theorem decodeReadResponse_of_length {regs : List Half} (hzero : regs.length ≠ 0) (htwo : regs.length ≠ 2) :
    decodeReadResponse regs = .error .formatError := by
  rw [decodeReadResponse, if_neg hzero, decodeFloat32_of_length _ _ _ htwo]

theorem exec_decRdresp_two (s : State) :
    exec (.decRdresp 2) s = .next { s.ended with res0 := s.arg0.extractLsb' 16 16 ++ s.arg0.extractLsb' 0 16 } := by
  rw [exec, execDecRdresp, operandRegs_two, decodeReadResponse_pair, conclude_ok, State.complete_setRes0]

theorem exec_decRdresp_zero (s : State) : exec (.decRdresp 0) s = .next (s.failed 3) := by
  have hregs : s.operandRegs 0 = [] := rfl
  rw [exec, execDecRdresp, hregs, decodeReadResponse_nil, conclude_error, State.raise_eq_failed, ErrorKind.code]

theorem exec_decRdresp_of_wrong_cnt (s : State) {cnt : Nat} (hzero : cnt ≠ 0) (htwo : cnt ≠ 2) :
    exec (.decRdresp cnt) s = .next (s.failed 2) := by
  rw [← operandRegs_length s cnt] at hzero htwo
  rw [exec, execDecRdresp, decodeReadResponse_of_length hzero htwo, conclude_error, State.raise_eq_failed, ErrorKind.code]

/-- Settles O22: decodeReadResponse for two registers, for none and for any other number; and the row of DEC_RDRESP. -/
theorem decRdrespDecodesOrReportsNoValue : Obligations.DecRdrespDecodesOrReportsNoValue := by
  unfold Obligations.DecRdrespDecodesOrReportsNoValue
  refine ⟨exec_decRdresp_two, exec_decRdresp_zero, fun s cnt => exec_decRdresp_of_wrong_cnt s,
    fun s w rest hpending hop => ?_⟩
  have hrow : opTable[7] ∈ opTable := List.getElem_mem (by decide)
  rw [step_command_of_row hrow hpending hop]
  exact if_congr ((row_decRdresp w).trans (and_iff_right hop)) rfl rfl

/-! ## buildReadRequest by cases (R160 to R162) -/

/-- The six bytes of a request before its checksum, the start register and the count high byte first (R160). -/
def requestBytes (a f : Byte) (st c : Half) : List Byte :=
  [a, f, st.extractLsb' 8 8, st.extractLsb' 0 8, c.extractLsb' 8 8, c.extractLsb' 0 8]

/-- A narrow field in an operand register is its own number: the register's sign bit is 0. -/
theorem toInt_setWidth_word {n : Nat} (hn : n < 32) (x : BitVec n) : (x.setWidth 32 : Word).toInt = x.toNat := by
  have hmsb : (x.setWidth 32 : Word).msb = false := by
    rw [BitVec.msb_setWidth, BitVec.getLsbD_of_ge x _ (by omega), Bool.and_false]
  rw [BitVec.toInt_eq_toNat_of_msb hmsb, BitVec.toNat_setWidth_of_le hn.le]

theorem encodeByte_toNat (b : Byte) : encodeByte b.toNat = .ok [b] := by
  rw [encodeByte_of_fits _ (by omega), BitVec.ofInt_natCast, BitVec.ofNat_toNat, BitVec.setWidth_eq]

theorem encodeShort16_toNat (h : Half) : encodeShort16 h.toNat = .ok [h.extractLsb' 8 8, h.extractLsb' 0 8] := by
  have hrange : ShortRange .unsigned h.toNat := ⟨by omega, by omega⟩
  rw [encodeShort16, packShort_of_fits _ _ _ ((inShortRange_iff _ _).mpr hrange), BitVec.ofInt_natCast, BitVec.ofNat_toNat,
    BitVec.setWidth_eq, pack16]

/-- Four fields in range make a frame: the six bytes and their checksum. -/
theorem buildReadRequest_toNat (a f : Byte) (st c : Half) :
    buildReadRequest a.toNat f.toNat st.toNat c.toNat =
      .ok (requestBytes a f st c ++ crcBytes (checksum (requestBytes a f st c))) := by
  rw [buildReadRequest, requestBody, encodeByte_toNat, encodeByte_toNat, encodeShort16_toNat, encodeShort16_toNat]
  rfl

/-- One field out of range fails the whole request (R162). -/
theorem buildReadRequest_of_not_fits {a f st c : ℤ}
    (h : ¬(0 ≤ a ∧ a ≤ 255 ∧ 0 ≤ f ∧ f ≤ 255 ∧ 0 ≤ st ∧ st ≤ 65535 ∧ 0 ≤ c ∧ c ≤ 65535)) :
    buildReadRequest a f st c = .error .rangeError := by
  cases hbody : requestBody a f st c with
  | error e => rw [buildReadRequest, hbody, requestBody_error a f st c e hbody, Except.map]
  | ok body =>
    obtain ⟨ha, hf, hst, hc, -⟩ := requestBody_ok a f st c body hbody
    have hst' : 0 ≤ st ∧ st ≤ 65535 := (inShortRange_iff .unsigned st).mp hst
    have hc' : 0 ≤ c ∧ c ≤ 65535 := (inShortRange_iff .unsigned c).mp hc
    exact (h (by omega)).elim

/-! ## BUILD_RDREQ (R163) -/

/-- The two wire bytes of a checksum, packed, are `zext_32` of it (R105, R163). -/
theorem packWord_crcBytes (k : Half) : packWord (crcBytes k) = k.setWidth 32 := by
  have hbytes : k.extractLsb' 8 8 ++ k.extractLsb' 0 8 = k :=
    (BitVec.extractLsb'_append_extractLsb'_eq_extractLsb' rfl).trans BitVec.extractLsb'_eq_self
  calc packWord (crcBytes k)
      = 0#16 ++ k.extractLsb' 8 8 ++ k.extractLsb' 0 8 := packWord_pair _ _
    _ = 0#16 ++ (k.extractLsb' 8 8 ++ k.extractLsb' 0 8) := BitVec.append_assoc
    _ = k.setWidth 32 := by rw [hbytes]; exact (BitVec.setWidth_eq_append (by decide)).symm

/-- Operands in range: the frame is placed and the command completes. -/
theorem exec_buildRdreq_of_fits {s : State} {a f : Byte} {st c : Half} (ha : s.arg0 = a.setWidth 32)
    (hf : s.arg1 = f.setWidth 32) (hst : s.arg2 = st.setWidth 32) (hc : s.arg3 = c.setWidth 32) :
    exec .buildRdreq s =
      .next (s.setRequest (requestBytes a f st c ++ crcBytes (checksum (requestBytes a f st c)))).complete := by
  have hbyte := toInt_setWidth_word (n := 8) (by decide)
  have hhalf := toInt_setWidth_word (n := 16) (by decide)
  rw [exec, execBuildRdreq, ha, hf, hst, hc, hbyte, hbyte, hhalf, hhalf, buildReadRequest_toNat, conclude_ok]

/-- A request placed, register by register (R163). -/
theorem complete_setRequest (s : State) (a f : Byte) (st c k : Half) :
    (s.setRequest (requestBytes a f st c ++ crcBytes k)).complete = { s.ended with
      frame0 := st.extractLsb' 0 8 ++ st.extractLsb' 8 8 ++ f ++ a
      frame1 := k.extractLsb' 8 8 ++ k.extractLsb' 0 8 ++ c.extractLsb' 0 8 ++ c.extractLsb' 8 8
      res0 := k.setWidth 32 } := by
  rw [← packWord_crcBytes] -- RES0 takes what is left of the frame after its first six bytes
  rfl

/-- The checksum is also the fold of the bitwise step (41_crc.md R102, R103). -/
theorem checksum_eq_foldl_bitwise (bs : List Byte) : checksum bs = bs.foldl crcStepBitwise 0xFFFF := by
  have hstep : crcStep = crcStepBitwise := funext₂ tableStepIsTheBitwiseStep
  rw [checksum, hstep, crcInitial]

/-- Settles O20: buildReadRequest by its two cases, the frame register by register, and the row of BUILD_RDREQ, which admits one
word. -/
theorem buildRdreqComposesTheFrameOrFails : Obligations.BuildRdreqComposesTheFrameOrFails := by
  unfold Obligations.BuildRdreqComposesTheFrameOrFails
  refine ⟨fun s a f st c ha hf hst hc k hk => ?_, fun s h => ?_, fun s w rest hpending hop => ?_⟩
  · have hsum : checksum (requestBytes a f st c) = k := (checksum_eq_foldl_bitwise _).trans hk.symm
    rw [exec_buildRdreq_of_fits ha hf hst hc, hsum, complete_setRequest]
  · rw [exec, execBuildRdreq, buildReadRequest_of_not_fits h, conclude_error, State.raise_eq_failed, ErrorKind.code]
  · have hrow : opTable[6] ∈ opTable := List.getElem_mem (by decide)
    rw [step_command_of_row hrow hpending hop]
    exact if_congr (row_whole w 0x00000020) rfl rfl

/-! ## A frame streamed (R164) -/

/-- The line `crc.byte b` writes a word that decodes to CRC_BYTE of `b` (30_encoding.md R79, R85). -/
theorem decode_crcByte_line (b : Byte) : decode (b.setWidth 32 <<< 24 ||| 0x02) = .ok (.crcByte b) := by
  have hword : (b.setWidth 32 <<< 24 ||| 0x02 : Word) = b ++ 0x000002#24 := by
    rw [BitVec.append_def, BitVec.shiftLeftZeroExtend_eq]
    rfl
  have hop : (b ++ 0x000002#24 : Word).extractLsb' 0 8 = 0x02 := BitVec.extractLsb'_append_eq_of_add_le (by decide)
  have hunused : (b ++ 0x000002#24 : Word).extractLsb' 8 16 = 0 := BitVec.extractLsb'_append_eq_of_add_le (by decide)
  have himm : fieldIMM8 (b ++ 0x000002#24) = b := BitVec.extractLsb'_append_eq_left
  have hrow : opTable[1] ∈ opTable := List.getElem_mem (by decide)
  rw [hword, (meets_row_iff_decode hrow _).mp ((row_crcByte _).mpr ⟨hop, hunused⟩)]
  exact congrArg (fun imm8 => Except.ok (Instr.crcByte imm8)) himm

/-- A run over `crc.byte` lines folds the step over their bytes, and besides the accumulator it changes CMD and STATUS alone. -/
theorem run_crcByteLines (s : State) (bs : List Byte) (rest : List HostEvent)
    (hpending : s.pending = bs.map (fun b => (Line.crcByte b).event s.params) ++ rest) :
    ∃ w st, Host.Core.run core bs.length s =
      .next { s with cmd := w, status := st, crc := bs.foldl crcStep s.crc, pending := rest } := by
  induction bs generalizing s with
  | nil =>
    obtain rfl : s.pending = rest := hpending
    exact ⟨s.cmd, s.status, rfl⟩
  | cons b bs ih =>
    have hstep := step_command_ok hpending (decode_crcByte_line b)
    rw [exec_crcByte] at hstep
    obtain ⟨hrest, -⟩ := step_pending_params hpending hstep
    obtain ⟨w, st, hrun⟩ := ih _ hrest
    exact ⟨w, st, (run_succ bs.length hstep).trans hrun⟩

/-- The lines of a checksum leave it in the accumulator, and besides CMD and STATUS they change nothing else (30_encoding.md
R86). -/
theorem run_checksumLines (s : State) (bs : List Byte) (rest : List HostEvent)
    (hpending : s.pending = (checksumLines bs).map (Line.event s.params) ++ rest) :
    ∃ w st, Host.Core.run core (bs.length + 1) s =
      .next { s with cmd := w, status := st, crc := checksum bs, pending := rest } := by
  have hlines : s.pending = .memWrite s.params.base 4 0x00000001 ::
      (bs.map (fun b => (Line.crcByte b).event s.params) ++ rest) := by
    rw [hpending, checksumLines, List.map_cons, List.map_map]
    rfl
  have hstep := step_command_ok hlines (i := .crcInit) (by decide)
  rw [exec_crcInit] at hstep
  obtain ⟨hrest, -⟩ := step_pending_params hlines hstep
  obtain ⟨w, st, hrun⟩ := run_crcByteLines _ bs rest hrest
  exact ⟨w, st, (run_succ bs.length hstep).trans hrun⟩

/-- Settles O21: BUILD_RDREQ places the frame, and the seven commands after it reach CRC but neither FRAME nor RES0. -/
theorem streamingAFrameGivesItsChecksum : Obligations.StreamingAFrameGivesItsChecksum := by
  unfold Obligations.StreamingAFrameGivesItsChecksum
  intro s a f st c rest ha hf hst hc hpending
  have hbuild := (step_command_ok hpending (i := .buildRdreq) (by decide)).trans (exec_buildRdreq_of_fits ha hf hst hc)
  obtain ⟨hrest, -⟩ := step_pending_params hpending hbuild
  obtain ⟨w, status, hstream⟩ := run_checksumLines _ (requestBytes a f st c) rest hrest
  refine ⟨_, (run_succ 7 hbuild).trans hstream, rfl, ?_⟩
  have hframe := frameByte_setRequest s a f (st.extractLsb' 8 8) (st.extractLsb' 0 8) (c.extractLsb' 8 8) (c.extractLsb' 0 8)
    ((checksum (requestBytes a f st c)).extractLsb' 0 8) ((checksum (requestBytes a f st c)).extractLsb' 8 8)
  have hbody := congrArg (List.take 6) hframe
  exact ⟨hbody, congrArg (·.getD 6 0) hframe, congrArg (·.getD 7 0) hframe, packWord_crcBytes _,
    congrArg checksum hbody.symm⟩

end Sys2Proof.Machine

/-! # Commands that fail: the statement of 60_exceptions.md R184 -/

namespace Sys2Proof.Machine

/-- A command that ends with an error raised it, and raising writes STATUS alone: a command that completes ends with ERR 0. -/
theorem exec_eq_failed_of_err_ne_zero {i : Instr} {s t : State} (h : exec i s = .next t) (herr : t.status.err ≠ 0) :
    t = s.failed t.status.err := by
  obtain ⟨e, rfl⟩ | ⟨c, r0, r1, f0, f1, rfl⟩ := exec_cases i s t h
  · exact s.raise_eq_failed e
  · exact absurd rfl herr

/-- Rejecting an illegal word is failing with IllegalCommand's code once CMD and LASTOP hold the word (R183). -/
theorem State.rejecting_eq_failed (s : State) (w : Word) (rest : List HostEvent) :
    s.rejecting w rest = (s.holding w rest).failed 4 := rfl

/-- Settles O25: a CMD write runs its command from the state that holds the word, or rejects the word there. -/
theorem failedCommandsWriteNoResult : Obligations.FailedCommandsWriteNoResult := by
  unfold Obligations.FailedCommandsWriteNoResult
  refine ⟨fun i s t h herr => exec_eq_failed_of_err_ne_zero h herr, fun s t w rest hpending hstep herr => ?_⟩
  cases hdecode : decode w with
  | ok i =>
    rw [step_command_ok hpending hdecode] at hstep
    exact exec_eq_failed_of_err_ne_zero hstep herr
  | error why =>
    rw [step_command_error hpending hdecode] at hstep
    cases hstep
    exact s.rejecting_eq_failed w rest

end Sys2Proof.Machine

/-! # Command words both ways: the statements of 30_encoding.md sections 1, 2 and 5 -/

namespace Sys2Proof

/-! ## The word of a command, read back by the command's row (R79) -/

/-- The opcode table's row of a command. -/
def rowOf : Instr → OpRow
  | .crcInit => opTable[0]
  | .crcByte _ => opTable[1]
  | .encByte => opTable[2]
  | .encShort _ _ _ => opTable[3]
  | .decShort _ _ _ _ => opTable[4]
  | .decF32 _ _ _ => opTable[5]
  | .buildRdreq => opTable[6]
  | .decRdresp _ => opTable[7]

theorem rowOf_mem (i : Instr) : rowOf i ∈ opTable := by
  cases i <;> exact List.getElem_mem _

/-- A mask that covers OP and the reserved bits works on a command word field by field (R70, R78). -/
theorem commandWord_and (imm8 imm8' : BitVec 8) (cnt cnt' : BitVec 3) (dec dec' : BitVec 4)
    (sg sg' wo wo' bo bo' : BitVec 1) (op : BitVec 8) :
    commandWord imm8 cnt dec sg wo bo op &&& (imm8' ++ 31#5 ++ cnt' ++ dec' ++ 1#1 ++ sg' ++ wo' ++ bo' ++ 255#8) =
      commandWord (imm8 &&& imm8') (cnt &&& cnt') (dec &&& dec') (sg &&& sg') (wo &&& wo') (bo &&& bo') op := by
  have hfields : (imm8 ++ 0#5 ++ cnt ++ dec ++ 0#1 ++ sg ++ wo ++ bo ++ op) &&&
      (imm8' ++ 31#5 ++ cnt' ++ dec' ++ 1#1 ++ sg' ++ wo' ++ bo' ++ 255#8) =
      (imm8 &&& imm8') ++ 0#5 ++ (cnt &&& cnt') ++ (dec &&& dec') ++ 0#1 ++ (sg &&& sg') ++ (wo &&& wo') ++
        (bo &&& bo') ++ op := by
    have hop : op &&& 255#8 = op := BitVec.and_allOnes
    simp only [BitVec.and_append, BitVec.zero_and, hop]
  exact hfields

/-- A command's word meets the command's row: each field is free there, its mask 0, or is 0 in the word. -/
theorem encode_meets_row (i : Instr) : encode i &&& (rowOf i).mask = (rowOf i).pattern := by
  cases i with
  | crcInit => rfl
  | crcByte imm8 =>
    refine (commandWord_and imm8 0#8 0#3 7#3 0#4 15#4 0#1 1#1 0#1 1#1 0#1 1#1 0x02#8).trans ?_
    rw [BitVec.and_zero]; rfl
  | encByte => rfl
  | encShort bo sg dec =>
    refine (commandWord_and 0#8 255#8 0#3 7#3 _ 0#4 _ 0#1 0#1 1#1 _ 0#1 0x11#8).trans ?_
    rw [BitVec.and_zero, BitVec.and_zero, BitVec.and_zero]; rfl
  | decShort bo sg dec cnt =>
    refine (commandWord_and 0#8 255#8 _ 0#3 _ 0#4 _ 0#1 0#1 1#1 _ 0#1 0x12#8).trans ?_
    simp only [BitVec.and_zero]; rfl
  | decF32 bo wo cnt =>
    refine (commandWord_and 0#8 255#8 _ 0#3 0#4 15#4 0#1 1#1 _ 0#1 _ 0#1 0x13#8).trans ?_
    simp only [BitVec.and_zero]; rfl
  | buildRdreq => rfl
  | decRdresp cnt =>
    refine (commandWord_and 0#8 255#8 _ 0#3 0#4 15#4 0#1 1#1 0#1 1#1 0#1 1#1 0x21#8).trans ?_
    rw [BitVec.and_zero]; rfl

/-- Read from a well-formed command's word, the fields of the command's row are the command's. -/
theorem build_encode {i : Instr} (h : WellFormed i = true) : (rowOf i).build (encode i) = i := by
  cases i with
  | crcInit => rfl
  | crcByte imm8 => simp [rowOf, opTable, encode]
  | encByte => rfl
  | encShort bo sg dec =>
    have hdec : dec < 16 := by simpa [WellFormed, decFits] using h
    simp [rowOf, opTable, encode, Nat.mod_eq_of_lt hdec]
  | decShort bo sg dec cnt =>
    obtain ⟨hdec, hcnt⟩ : dec < 16 ∧ cnt < 8 := by simpa [WellFormed, decFits, cntFits] using h
    simp [rowOf, opTable, encode, Nat.mod_eq_of_lt hdec, Nat.mod_eq_of_lt hcnt]
  | decF32 bo wo cnt =>
    have hcnt : cnt < 8 := by simpa [WellFormed, cntFits] using h
    simp [rowOf, opTable, encode, Nat.mod_eq_of_lt hcnt]
  | buildRdreq => rfl
  | decRdresp cnt =>
    have hcnt : cnt < 8 := by simpa [WellFormed, cntFits] using h
    simp [rowOf, opTable, encode, Nat.mod_eq_of_lt hcnt]

/-- Settles O2: the word meets the command's row, and the row reads the command's fields back. -/
theorem decodeOfEncodeIsTheCommand : Obligations.DecodeOfEncodeIsTheCommand := by
  unfold Obligations.DecodeOfEncodeIsTheCommand
  intro i h
  rw [(meets_row_iff_decode (rowOf_mem i) _).mp (encode_meets_row i), build_encode h]

/-! ## The command of a word, encoded again (R78, R80) -/

@[simp] theorem bitOf_byteOrderOf (b : BitVec 1) : bitOfByteOrder (byteOrderOf b) = b := by
  obtain rfl | rfl := BitVec.eq_zero_or_eq_one b <;> rfl
@[simp] theorem bitOf_wordOrderOf (b : BitVec 1) : bitOfWordOrder (wordOrderOf b) = b := by
  obtain rfl | rfl := BitVec.eq_zero_or_eq_one b <;> rfl
@[simp] theorem bitOf_signednessOf (b : BitVec 1) : bitOfSignedness (signednessOf b) = b := by
  obtain rfl | rfl := BitVec.eq_zero_or_eq_one b <;> rfl

theorem wellFormed_build {r : OpRow} (hr : r ∈ opTable) (w : Word) : WellFormed (r.build w) = true := by
  have hdec : decFits (fieldDEC w).toNat = true := decide_eq_true (fieldDEC w).isLt
  have hcnt : cntFits (fieldCNT w).toNat = true := decide_eq_true (fieldCNT w).isLt
  have hrows : ∀ r ∈ opTable, WellFormed (r.build w) = true := by
    simp [opTable, WellFormed, hdec, hcnt]
  exact hrows r hr

/-- A word whose reserved bits are 0 is made of its fields (R70). -/
theorem commandWord_fields {w : Word} (h11 : w.extractLsb' 11 1 = 0) (h19 : w.extractLsb' 19 5 = 0) :
    commandWord (fieldIMM8 w) (fieldCNT w) (fieldDEC w) (fieldSG w) (fieldWO w) (fieldBO w) (fieldOP w) = w := by
  apply BitVec.eq_of_toNat_eq
  have h11' := congrArg BitVec.toNat h11
  have h19' := congrArg BitVec.toNat h19
  simp [Nat.shiftRight_eq_div_pow] at h11' h19'
  simp [commandWord_toNat, fieldIMM8, fieldCNT, fieldDEC, fieldSG, fieldWO, fieldBO, fieldOP, Nat.shiftRight_eq_div_pow]
  omega

/-- In a word that meets a row, bits that the row's mask covers are those of its pattern. -/
theorem extractLsb'_of_meets {w mask pattern : Word} (h : w &&& mask = pattern) {start len : Nat}
    (hmask : mask.extractLsb' start len = BitVec.allOnes len) : w.extractLsb' start len = pattern.extractLsb' start len := by
  rw [← h, BitVec.extractLsb'_and, hmask, BitVec.and_allOnes]

/-- The encoder writes, under a row that the word meets, the word's own fields: those that the command does not use are 0
there. -/
theorem encode_build_eq_fields {r : OpRow} (hr : r ∈ opTable) {w : Word} (h : w &&& r.mask = r.pattern) :
    encode (r.build w) =
      commandWord (fieldIMM8 w) (fieldCNT w) (fieldDEC w) (fieldSG w) (fieldWO w) (fieldBO w) (fieldOP w) := by
  have hrows : ∀ r ∈ opTable, w &&& r.mask = r.pattern → encode (r.build w) =
      commandWord (fieldIMM8 w) (fieldCNT w) (fieldDEC w) (fieldSG w) (fieldWO w) (fieldBO w) (fieldOP w) := by
    simp only [opTable, List.forall_mem_cons, List.not_mem_nil, false_imp_iff, implies_true, and_true, encode,
      bitOf_byteOrderOf, bitOf_wordOrderOf, bitOf_signednessOf, BitVec.ofNat_toNat, BitVec.setWidth_eq]
    refine ⟨?_, ?_, ?_, ?_, ?_, ?_, ?_, ?_⟩ <;> intro hmeets <;> congr 1 <;> exact Eq.symm (extractLsb'_of_meets hmeets rfl)
  exact hrows r hr h

/-- A row leaves no reserved bit free and wants each at 0. -/
theorem reserved_of_meets_row {r : OpRow} (hr : r ∈ opTable) {w : Word} (h : w &&& r.mask = r.pattern) :
    w.extractLsb' 11 1 = 0 ∧ w.extractLsb' 19 5 = 0 := by
  have hrows : ∀ r ∈ opTable, r.mask.extractLsb' 11 1 = BitVec.allOnes 1 ∧ r.pattern.extractLsb' 11 1 = 0 ∧
    r.mask.extractLsb' 19 5 = BitVec.allOnes 5 ∧ r.pattern.extractLsb' 19 5 = 0 := by decide
  obtain ⟨hmask11, hzero11, hmask19, hzero19⟩ := hrows r hr
  exact ⟨(extractLsb'_of_meets h hmask11).trans hzero11, (extractLsb'_of_meets h hmask19).trans hzero19⟩

/-- Settles O3: what decodes is built by a row the word meets, and such a word is made of the fields that the encoder
writes. -/
theorem encodeOfDecodeIsTheWord : Obligations.EncodeOfDecodeIsTheWord := by
  unfold Obligations.EncodeOfDecodeIsTheWord
  intro w i h
  obtain ⟨r, hr, hmeets, rfl⟩ := exists_row_of_decode_ok h
  obtain ⟨h11, h19⟩ := reserved_of_meets_row hr hmeets
  exact ⟨wellFormed_build hr w, (encode_build_eq_fields hr hmeets).trans (commandWord_fields h11 h19)⟩

/-! ## The spec's own words (95_test_vectors.md) -/

/-- Settles O4: the decoder, run on each of the eleven words. -/
theorem sampleWordsDecode : Obligations.SampleWordsDecode := by
  unfold Obligations.SampleWordsDecode
  decide

end Sys2Proof

namespace Sys2Proof.Machine

/-! ## Assembler lines (R85) -/

/-- Command words are combined field by field. -/
theorem commandWord_or (imm8 imm8' : BitVec 8) (cnt cnt' : BitVec 3) (dec dec' : BitVec 4)
    (sg sg' wo wo' bo bo' : BitVec 1) (op op' : BitVec 8) :
    commandWord imm8 cnt dec sg wo bo op ||| commandWord imm8' cnt' dec' sg' wo' bo' op' =
      commandWord (imm8 ||| imm8') (cnt ||| cnt') (dec ||| dec') (sg ||| sg') (wo ||| wo') (bo ||| bo') (op ||| op') := by
  have hfields : (imm8 ++ 0#5 ++ cnt ++ dec ++ 0#1 ++ sg ++ wo ++ bo ++ op) |||
      (imm8' ++ 0#5 ++ cnt' ++ dec' ++ 0#1 ++ sg' ++ wo' ++ bo' ++ op') =
      (imm8 ||| imm8') ++ 0#5 ++ (cnt ||| cnt') ++ (dec ||| dec') ++ 0#1 ++ (sg ||| sg') ++ (wo ||| wo') ++
        (bo ||| bo') ++ (op ||| op') := by
    simp only [BitVec.or_append, BitVec.or_zero]
  exact hfields

/-! R85 writes a field by shifting its value to its place: that is the command word with this field alone. -/

theorem shifted_imm8 (imm8 : BitVec 8) : imm8.setWidth 32 <<< 24 = commandWord imm8 0#3 0#4 0#1 0#1 0#1 0#8 := by
  apply BitVec.eq_of_toNat_eq
  simp [commandWord_toNat, Nat.shiftLeft_eq]
  omega

theorem shifted_cnt (cnt : BitVec 3) : cnt.setWidth 32 <<< 16 = commandWord 0#8 cnt 0#4 0#1 0#1 0#1 0#8 := by
  apply BitVec.eq_of_toNat_eq
  simp [commandWord_toNat, Nat.shiftLeft_eq]
  omega

theorem shifted_dec (dec : BitVec 4) : dec.setWidth 32 <<< 12 = commandWord 0#8 0#3 dec 0#1 0#1 0#1 0#8 := by
  apply BitVec.eq_of_toNat_eq
  simp [commandWord_toNat, Nat.shiftLeft_eq]
  omega

theorem optionAt_sg (s : Bool) : optionAt s 10 =
    commandWord 0#8 0#3 0#4 (bitOfSignedness (if s then .signed else .unsigned)) 0#1 0#1 0#8 := by
  cases s <;> rfl

theorem optionAt_wo (wo : Bool) : optionAt wo 9 =
    commandWord 0#8 0#3 0#4 0#1 (bitOfWordOrder (if wo then .little else .big)) 0#1 0#8 := by
  cases wo <;> rfl

theorem optionAt_bo (le : Bool) : optionAt le 8 =
    commandWord 0#8 0#3 0#4 0#1 0#1 (bitOfByteOrder (if le then .little else .big)) 0#8 := by
  cases le <;> rfl

theorem opcode_words :
    0x02#32 = commandWord 0#8 0#3 0#4 0#1 0#1 0#1 0x02#8 ∧ 0x11#32 = commandWord 0#8 0#3 0#4 0#1 0#1 0#1 0x11#8 ∧
    0x12#32 = commandWord 0#8 0#3 0#4 0#1 0#1 0#1 0x12#8 ∧ 0x13#32 = commandWord 0#8 0#3 0#4 0#1 0#1 0#1 0x13#8 ∧
    0x21#32 = commandWord 0#8 0#3 0#4 0#1 0#1 0#1 0x21#8 := ⟨rfl, rfl, rfl, rfl, rfl⟩

/-- Settles O5: each line's terms are command words of one field each, and their combination is the encoder's word. -/
theorem assemblerLinesWriteTheirCommands : Obligations.AssemblerLinesWriteTheirCommands := by
  unfold Obligations.AssemblerLinesWriteTheirCommands
  intro b c k le s wo
  obtain ⟨h02, h11, h12, h13, h21⟩ := opcode_words
  have hdecF32 : ∀ bo wo, (Line.decF32 c bo wo).word =
      some (encode (.decF32 (if bo then .little else .big) (if wo then .little else .big) c.toNat)) := fun bo wo => by
    simp [Line.word, encode, h13, optionAt_bo, optionAt_wo, shifted_cnt, commandWord_or]
  refine ⟨?_, ?_, ?_, hdecF32 le wo, hdecF32 false true, ?_⟩
  · simp [Line.word, encode, h02, shifted_imm8, commandWord_or]
  · simp [Line.word, encode, h11, optionAt_bo, optionAt_sg, shifted_dec, commandWord_or]
  · simp [Line.word, encode, h12, optionAt_bo, optionAt_sg, shifted_dec, shifted_cnt, commandWord_or]
  · simp [Line.word, encode, h21, shifted_cnt, commandWord_or]

end Sys2Proof.Machine

/-! # Messages that carry their checksum: the statement of 93_implementation_defined.md G7 -/

namespace Sys2Proof.Machine

/-- An accumulator that takes its own wire bytes, the low one first, is empty: each byte shifts itself out (41_crc.md
R105). -/
theorem foldl_crcStep_crcBytes (c : Half) : (crcBytes c).foldl crcStep c = 0 := by
  have hhigh : c.extractLsb' 8 8 = (c >>> 8).extractLsb' 0 8 := by
    ext i hi
    simp [BitVec.getElem_extractLsb', BitVec.getLsbD_ushiftRight]
  have hempty : c >>> 8 >>> 8 = 0 := by
    rw [← BitVec.shiftRight_add]
    exact BitVec.ushiftRight_eq_zero (by decide)
  rw [crcBytes, List.foldl_cons, List.foldl_cons, List.foldl_nil, crcStep_lowByte, hhigh, crcStep_lowByte, hempty]

/-- Settles O8: after the message the accumulator holds the checksum, whose bytes empty it. -/
theorem messageWithItsChecksumHasChecksumZero : Obligations.MessageWithItsChecksumHasChecksumZero := by
  unfold Obligations.MessageWithItsChecksumHasChecksumZero
  intro bs
  rw [checksum_append, foldl_crcStep_crcBytes]

end Sys2Proof.Machine

/-! # Every command: how it ends, what it writes, and a second run -/

namespace Sys2Proof.Machine

/-! ## The codes a command ends with (60_exceptions.md R181) -/

/-- A command whose function can fail with RangeError alone ends with code 0 or 1. -/
theorem conclude_err_of_rangeError {α : Type} {s : State} {r : Except ErrorKind α} {write : State → α → State}
    (h : ∀ e, r = .error e → e = .rangeError) :
    (s.conclude r write).status.err = 0 ∨ (s.conclude r write).status.err = 1 := by
  cases r with
  | ok v => exact .inl rfl
  | error e => obtain rfl := h e rfl; exact .inr rfl

theorem encodeByte_error {n : ℤ} {e : ErrorKind} (h : encodeByte n = .error e) : e = .rangeError := by
  unfold encodeByte at h
  split at h <;> cases h
  rfl

theorem buildReadRequest_error {a f st c : ℤ} {e : ErrorKind} (h : buildReadRequest a f st c = .error e) :
    e = .rangeError := by
  cases hbody : requestBody a f st c with
  | error e' =>
    rw [buildReadRequest, hbody] at h
    cases h
    exact requestBody_error a f st c e hbody
  | ok body => rw [buildReadRequest, hbody] at h; cases h

/-- A command ends with a code that R181 gives it. -/
theorem mayEndWith_of_exec {i : Instr} {s t : State} (h : exec i s = .next t) : mayEndWith i t.status.err = true := by
  cases i with
  | crcInit => cases h; rfl
  | crcByte b => cases h; rfl
  | encByte =>
    cases h
    simpa [mayEndWith] using conclude_err_of_rangeError fun _ => encodeByte_error
  | encShort bo sg dec =>
    cases h
    simpa [mayEndWith] using conclude_err_of_rangeError fun e => encodeShort_error _ _ _ _ _ e
  | decShort bo sg dec cnt =>
    by_cases hcnt : cnt = 2
    · subst hcnt
      rw [exec_decShort_two] at h; cases h; rfl
    · rw [exec_decShort_of_cnt_ne_two s bo sg dec hcnt] at h
      cases h
      simp [mayEndWith, hcnt, State.failed]
  | decF32 bo wo cnt =>
    by_cases hcnt : cnt = 2
    · subst hcnt
      cases h; rfl
    · rw [exec_decF32_of_cnt_ne_two s bo wo hcnt] at h
      cases h
      simp [mayEndWith, hcnt, State.failed]
  | buildRdreq =>
    cases h
    simpa [mayEndWith] using conclude_err_of_rangeError fun _ => buildReadRequest_error
  | decRdresp cnt =>
    by_cases htwo : cnt = 2
    · subst htwo
      rw [exec_decRdresp_two] at h; cases h; rfl
    by_cases hzero : cnt = 0
    · subst hzero
      rw [exec_decRdresp_zero] at h; cases h; rfl
    · rw [exec_decRdresp_of_wrong_cnt s hzero htwo] at h
      cases h
      simp [mayEndWith, htwo, hzero, State.failed]

/-- Settles O23: every command answers a next state, and each with a code of its own row of R181. -/
theorem everyCommandEndsWithAListedCode : Obligations.EveryCommandEndsWithAListedCode := by
  unfold Obligations.EveryCommandEndsWithAListedCode
  intro i s
  obtain ⟨t, ht⟩ := exec_next i s
  exact ⟨t, ht, mayEndWith_of_exec ht⟩

/-! ## The registers a command writes (10_state.md R29, R34, R35) -/

/-- `Ends s i t`: from `s`, the command `i` can end in `t`, by what it wrote. Nothing but STATUS where it raised; else the
registers of its own rule. -/
inductive Ends (s : State) : Instr → State → Prop
  | raised (i : Instr) (e : ErrorKind) : Ends s i (s.raise e)
  | crcInit (v : Half) : Ends s .crcInit (s.setCrc v).complete
  | crcByte (b : Byte) (v : Half) : Ends s (.crcByte b) (s.setCrc v).complete
  | encByte (v : Word) : Ends s .encByte (s.setRes0 v).complete
  | encShort (bo : ByteOrder) (sg : Signedness) (dec : Nat) (v : Word) :
      Ends s (.encShort bo sg dec) (s.setRes0 v).complete
  | decShort (bo : ByteOrder) (sg : Signedness) (dec cnt : Nat) (v : Word) (d : BitVec 4) :
      Ends s (.decShort bo sg dec cnt) ((s.setRes0 v).setRes1 (d.setWidth 32)).complete
  | decF32 (bo : ByteOrder) (wo : WordOrder) (cnt : Nat) (v : Word) : Ends s (.decF32 bo wo cnt) (s.setRes0 v).complete
  | buildRdreq (a f st c : ℤ) (fr : List Byte) (h : buildReadRequest a f st c = .ok fr) :
      Ends s .buildRdreq (s.setRequest fr).complete
  | decRdresp (cnt : Nat) (v : Word) : Ends s (.decRdresp cnt) (s.setRes0 v).complete

/-- A command that concludes ends as its write does, or raised. -/
theorem Ends.of_conclude {α : Type} {s : State} {i : Instr} {r : Except ErrorKind α} {write : State → α → State}
    (hwrite : ∀ v, r = .ok v → Ends s i (write s v).complete) : Ends s i (s.conclude r write) := by
  cases r with
  | ok v => exact hwrite v rfl
  | error e => exact .raised i e

theorem ends_of_exec {i : Instr} {s t : State} (h : exec i s = .next t) : Ends s i t := by
  cases i with
  | crcInit => cases h; exact .crcInit _
  | crcByte b => cases h; exact .crcByte b _
  | encByte => cases h; exact .of_conclude fun bs _ => .encByte _
  | encShort bo sg dec => cases h; exact .of_conclude fun bs _ => .encShort bo sg dec _
  | decShort bo sg dec cnt => cases h; exact .of_conclude fun r _ => .decShort bo sg dec cnt _ _
  | decF32 bo wo cnt => cases h; exact .of_conclude fun v _ => .decF32 bo wo cnt v
  | buildRdreq => cases h; exact .of_conclude fun fr hfr => .buildRdreq _ _ _ _ fr hfr
  | decRdresp cnt => cases h; exact .of_conclude fun v _ => .decRdresp cnt v

/-- Settles O24, by what the command wrote: no write reaches the registers that all commands keep, and CRC, FRAME, RES1 and
RES0 are each written by the commands that the statement excepts. -/
theorem commandsWriteOnlyTheirRegisters : Obligations.CommandsWriteOnlyTheirRegisters := by
  unfold Obligations.CommandsWriteOnlyTheirRegisters
  intro i s t h
  have hargs : ∀ n, t.readReg (.arg n) = s.readReg (.arg n) := by
    obtain ⟨e, rfl⟩ | ⟨c, r0, r1, f0, f1, rfl⟩ := exec_cases i s t h
    · exact fun n => by fin_cases n <;> rfl
    · exact fun n => by fin_cases n <;> rfl
  refine ⟨hargs, ?_⟩
  cases ends_of_exec h <;> simp [State.setRequest]

/-! ## A second run (20_memory.md R60) -/

/-- A command that reads no register it writes, and writes a value over itself, concludes from where it concluded in the same
state. -/
theorem conclude_again {α : Type} {f : State → Except ErrorKind α} {write : State → α → State} {s t : State}
    (h : s.conclude (f s) write = t) (hraise : ∀ e, f (s.raise e) = f s) (hwrite : ∀ v, f (write s v).complete = f s)
    (hover : ∀ v, (write (write s v).complete v).complete = (write s v).complete) : t.conclude (f t) write = t := by
  obtain ⟨e, hf, rfl⟩ | ⟨v, hf, rfl⟩ := conclude_cases s t _ _ h
  · rw [hraise, hf, conclude_error]; rfl
  · rw [hwrite, hf, conclude_ok, hover]

/-- Every command but CRC_BYTE, run where it ended, ends there. -/
theorem exec_again {i : Instr} {s t : State} (hbyte : ∀ b, i ≠ .crcByte b) (h : exec i s = .next t) :
    exec i t = .next t := by
  cases i with
  | crcInit => cases h; rfl
  | crcByte b => exact absurd rfl (hbyte b)
  | encByte =>
    exact congrArg _ (conclude_again (f := fun u => encodeByte u.arg0.toInt) (Host.Outcome.next.inj h) (fun _ => rfl)
      (fun _ => rfl) fun _ => rfl)
  | encShort bo sg dec =>
    exact congrArg _ (conclude_again (f := fun u => encodeShort u.params.scaleArith u.operand64 dec bo sg)
      (Host.Outcome.next.inj h) (fun _ => rfl) (fun _ => rfl) fun _ => rfl)
  | decShort bo sg dec cnt =>
    exact congrArg _ (conclude_again (f := fun u => decodeShort (u.operandBytes cnt) dec bo sg) (Host.Outcome.next.inj h)
      (fun _ => rfl) (fun _ => rfl) fun _ => rfl)
  | decF32 bo wo cnt =>
    exact congrArg _ (conclude_again (f := fun u => decodeFloat32 (u.operandRegs cnt) bo wo) (Host.Outcome.next.inj h)
      (fun _ => rfl) (fun _ => rfl) fun _ => rfl)
  | buildRdreq =>
    exact congrArg _ (conclude_again (f := fun u => buildReadRequest u.arg0.toInt u.arg1.toInt u.arg2.toInt u.arg3.toInt)
      (Host.Outcome.next.inj h) (fun _ => rfl) (fun _ => rfl) fun _ => rfl)
  | decRdresp cnt =>
    exact congrArg _ (conclude_again (f := fun u => decodeReadResponse (u.operandRegs cnt)) (Host.Outcome.next.inj h)
      (fun _ => rfl) (fun _ => rfl) fun _ => rfl)

/-- Settles O27: seven commands write again what they wrote, and CRC_BYTE steps the accumulator that it stepped. -/
theorem secondRunRepeatsTheResult : Obligations.SecondRunRepeatsTheResult := by
  unfold Obligations.SecondRunRepeatsTheResult
  refine ⟨fun i s t hbyte h => exec_again hbyte h, fun b s => ⟨_, _, exec_crcByte s b, exec_crcByte _ b, ?_⟩⟩
  rw [← tableStepIsTheBitwiseStep, ← tableStepIsTheBitwiseStep]

end Sys2Proof.Machine

/-! # Steps: the statements of 20_memory.md section 2 and 70_reset_and_hazards.md -/

namespace Sys2Proof.Machine

/-! ## CMD writes and resets (20_memory.md R59, 70_reset_and_hazards.md R200) -/

/-- The event that withFetchWord places is the CMD write of the word itself: 32 bits hold it. -/
theorem withFetchWord_pending (s : State) (w : Word) :
    (s.withFetchWord 32 w.toNat).pending = .memWrite s.params.base 4 w :: s.pending := by
  have hword : BitVec.ofNat 32 (w.toNat % 2 ^ 32) = w := by
    rw [Nat.mod_eq_of_lt w.isLt, BitVec.ofNat_toNat, BitVec.setWidth_eq]
  simp only [State.withFetchWord, commandWrite, hword]

/-- Settles O28: a CMD write runs or rejects its word, and withFetchWord places a CMD write. -/
theorem stepRunsTheDecodedCommand : Obligations.StepRunsTheDecodedCommand := by
  unfold Obligations.StepRunsTheDecodedCommand
  refine ⟨fun s w rest hpending => ⟨fun i => step_command_ok hpending, fun why => step_command_error hpending⟩,
    fun s w i hdecode => ?_⟩
  exact step_command_ok (s := s.withFetchWord 32 w.toNat) (withFetchWord_pending s w) hdecode

/-- Settles O33: serving a reset is resetting the block. -/
theorem resetEventSetsEveryRegister : Obligations.ResetEventSetsEveryRegister := by
  unfold Obligations.ResetEventSetsEveryRegister
  intro s rest hpending
  rw [step_cons s _ rest hpending]
  rfl

/-! ## Refused transactions (20_memory.md R54 to R57) -/

/-- A read or a write of an address at which nothing is located is refused for that reason. -/
theorem step_refused_of_locate {s : State} {addr size : Nat} {v : Word} {rest : List HostEvent} {why : Refusal}
    (h : s.pending = .memRead addr size :: rest ∨ s.pending = .memWrite addr size v :: rest)
    (hloc : locate s.params addr size = .error why) : step s = .refused why := by
  obtain hread | hwrite := h
  · exact step_read_refused hread hloc
  · exact step_write_refused hwrite (by rw [hloc]; rfl)

/-- The offsets of R57 are those of the registers that are read-only. -/
theorem exists_readOnly_of_offset : ∀ off ∈ [0x04, 0x08, 0x20, 0x24, 0x28, 0x2C],
    ∃ r, off = regOffset r ∧ writeTarget r = .error .readOnlyRegister := by
  simp only [List.forall_mem_cons, List.not_mem_nil, false_imp_iff, implies_true, and_true]
  exact ⟨⟨.status, rfl, rfl⟩, ⟨.crc, rfl, rfl⟩, ⟨.res 0, rfl, rfl⟩, ⟨.res 1, rfl, rfl⟩, ⟨.frame 0, rfl, rfl⟩,
    ⟨.frame 1, rfl, rfl⟩⟩

/-- Settles O32: the window locates nothing in the first three cases, and in the fourth a register without a write target. -/
theorem meaninglessTransactionsAreRefused : Obligations.MeaninglessTransactionsAreRefused := by
  unfold Obligations.MeaninglessTransactionsAreRefused
  intro s addr size off v rest
  refine ⟨fun hsize hpending => ?_, fun hoff halign hpending => ?_, fun hreserved hpending => ?_,
    fun hreadOnly hpending => ?_⟩
  · exact step_refused_of_locate hpending (locate_other_width s.params addr size hsize)
  · exact step_refused_of_locate hpending (locate_misaligned s.params off hoff halign)
  · exact step_refused_of_locate hpending (locate_reserved s.params hreserved)
  · obtain ⟨r, rfl, htarget⟩ := exists_readOnly_of_offset off hreadOnly
    exact step_write_refused hpending (by rw [locate_regOffset]; exact htarget)

/-! ## Legal events (70_reset_and_hazards.md R211) -/

/-- A located access is a 4-byte access at its register's address. -/
theorem eq_of_locate_ok {p : Params} {addr size : Nat} {r : Reg} (h : locate p addr size = .ok r) :
    size = 4 ∧ addr = p.base + regOffset r := by
  obtain ⟨hsize, hbase, hreg⟩ := locate_ok p addr size r h
  have hoff := regAt_eq_some_iff.mp hreg
  exact ⟨hsize, by omega⟩

theorem legal_read_of_locate {p : Params} {addr size : Nat} {r : Reg} (h : locate p addr size = .ok r) :
    (HostEvent.memRead addr size).legal p = true := by
  obtain ⟨rfl, rfl⟩ := eq_of_locate_ok h
  simpa [HostEvent.legal] using regOffset_mem_readableOffsets r

theorem legal_write_of_target {p : Params} {addr size : Nat} {v : Word} {t : WriteTarget}
    (h : (locate p addr size).bind writeTarget = .ok t) : (HostEvent.memWrite addr size v).legal p = true := by
  cases hloc : locate p addr size with
  | error why => rw [hloc] at h; cases h
  | ok r =>
    rw [hloc] at h
    obtain ⟨rfl, rfl⟩ := eq_of_locate_ok hloc
    simpa [HostEvent.legal] using regOffset_mem_writableOffsets h

/-- An event that is not legal has no step: what the window would serve is legal. -/
theorem step_refused_of_not_legal {s : State} {ev : HostEvent} {rest : List HostEvent} (h : s.pending = ev :: rest)
    (hlegal : ev.legal s.params = false) : ∃ why, step s = .refused why := by
  cases ev with
  | memRead addr size =>
    cases hloc : locate s.params addr size with
    | error why => exact ⟨why, step_read_refused h hloc⟩
    | ok r => exact absurd (legal_read_of_locate hloc) (Bool.eq_false_iff.mp hlegal)
  | memWrite addr size v =>
    cases htarget : (locate s.params addr size).bind writeTarget with
    | error why => exact ⟨why, step_write_refused h htarget⟩
    | ok t => exact absurd (legal_write_of_target htarget) (Bool.eq_false_iff.mp hlegal)
  | reset => cases hlegal

/-- Settles O34: a legal event is served and taken off the list, and any other is refused. -/
theorem legalEventsHaveAStep : Obligations.LegalEventsHaveAStep := by
  unfold Obligations.LegalEventsHaveAStep
  refine ⟨fun s ev rest hpending => ⟨fun hlegal => ?_, step_refused_of_not_legal hpending⟩, step_nil⟩
  obtain ⟨t, hstep⟩ := exists_step_of_legal hpending hlegal
  exact ⟨t, hstep, step_pending_params hpending hstep⟩

/-- Settles O35, by induction on the events: each is served by one step, which leaves the others and the window as they
are. -/
theorem legalRunsReachTheirEnd : Obligations.LegalRunsReachTheirEnd := by
  unfold Obligations.LegalRunsReachTheirEnd
  intro s evs rest hpending hlegal
  induction evs generalizing s with
  | nil => exact ⟨s, rfl, hpending, rfl⟩
  | cons ev evs ih =>
    obtain ⟨u, hstep⟩ := exists_step_of_legal hpending (hlegal ev List.mem_cons_self)
    obtain ⟨hrest, hparams⟩ := step_pending_params hpending hstep
    obtain ⟨t, hrun, ht, htparams⟩ := ih u hrest fun e he => hparams ▸ hlegal e (List.mem_cons_of_mem ev he)
    exact ⟨t, (run_succ evs.length hstep).trans hrun, ht, htparams.trans hparams⟩

/-! ## Reads dropped from a run (20_memory.md R58) -/

/-- `s` with other events to come and other values handed to the host. -/
def State.withLists (s : State) (pending : List HostEvent) (returned : List Word) : State :=
  { s with pending := pending, returned := returned }

/-- A command whose write leaves the run's lists to themselves concludes alike whatever they hold. -/
theorem conclude_withLists {α : Type} (s : State) (evs : List HostEvent) (ret : List Word) (r : Except ErrorKind α)
    (write : State → α → State) (hwrite : ∀ v, write (s.withLists evs ret) v = (write s v).withLists evs ret) :
    (s.withLists evs ret).conclude r write = (s.conclude r write).withLists evs ret := by
  cases r with
  | ok v => rw [conclude_ok, conclude_ok, hwrite]; rfl
  | error e => rfl

/-- No command reads the run's lists. -/
theorem exec_withLists {i : Instr} {s t : State} (evs : List HostEvent) (ret : List Word) (h : exec i s = .next t) :
    exec i (s.withLists evs ret) = .next (t.withLists evs ret) := by
  cases i with
  | crcInit => cases h; rfl
  | crcByte b => cases h; rfl
  | encByte => cases h; exact congrArg _ (conclude_withLists s evs ret _ _ fun _ => rfl)
  | encShort bo sg dec => cases h; exact congrArg _ (conclude_withLists s evs ret _ _ fun _ => rfl)
  | decShort bo sg dec cnt => cases h; exact congrArg _ (conclude_withLists s evs ret _ _ fun _ => rfl)
  | decF32 bo wo cnt => cases h; exact congrArg _ (conclude_withLists s evs ret _ _ fun _ => rfl)
  | buildRdreq => cases h; exact congrArg _ (conclude_withLists s evs ret _ _ fun _ => rfl)
  | decRdresp cnt => cases h; exact congrArg _ (conclude_withLists s evs ret _ _ fun _ => rfl)

/-- The event is no read. -/
def HostEvent.notRead : HostEvent → Bool
  | .memRead _ _ => false
  | .memWrite _ _ _ => true
  | .reset => true

/-- What an event other than a read does depends on no other event and on no value handed over. -/
theorem step_withLists {s t : State} {ev : HostEvent} {rest : List HostEvent} (h : s.pending = ev :: rest)
    (hnotRead : ev.notRead = true) (hstep : step s = .next t) (evs : List HostEvent) (ret : List Word) :
    step (s.withLists (ev :: evs) ret) = .next (t.withLists evs ret) := by
  obtain ⟨hnil, -⟩ | ⟨ev', rest', hpending, hserved⟩ := step_cases s t hstep
  · simp [h] at hnil
  obtain ⟨rfl, rfl⟩ : ev = ev' ∧ rest = rest' := by simpa [h] using hpending
  obtain ⟨addr, size, r, rfl, -, -⟩ | ⟨addr, size, n, v, rfl, hloc, rfl⟩ | ⟨w, i, rfl, hdecode, hexec⟩ |
    ⟨w, why, rfl, hdecode, rfl⟩ | ⟨rfl, rfl⟩ := hserved
  · cases hnotRead -- a read
  · -- an operand write
    rw [step_write_operand (s := s.withLists _ ret) rfl hloc]
    fin_cases n <;> rfl
  · -- a legal command
    rw [step_command_ok (s := s.withLists _ ret) rfl hdecode]
    exact exec_withLists evs ret hexec
  · exact step_command_error (s := s.withLists _ ret) rfl hdecode -- an illegal word
  · exact step_cons (s.withLists _ ret) _ _ rfl -- a reset

/-- A read changes nothing but the run's lists (R58). -/
theorem withLists_of_read {s t : State} {ev : HostEvent} {rest : List HostEvent} (h : s.pending = ev :: rest)
    (hread : ev.notRead = false) (hstep : step s = .next t) (evs : List HostEvent) (ret : List Word) :
    t.withLists evs ret = s.withLists evs ret := by
  obtain ⟨hnil, -⟩ | ⟨ev', rest', hpending, hserved⟩ := step_cases s t hstep
  · simp [h] at hnil
  obtain ⟨rfl, rfl⟩ : ev = ev' ∧ rest = rest' := by simpa [h] using hpending
  obtain ⟨addr, size, r, -, -, rfl⟩ | ⟨addr, size, n, v, rfl, -⟩ | ⟨w, i, rfl, -⟩ | ⟨w, why, rfl, -⟩ | ⟨rfl, -⟩ := hserved
  · rfl
  · cases hread
  · cases hread
  · cases hread
  · cases hread

/-- A run of legal events taken without its reads ends where the run ended, but for the values handed over. -/
theorem run_without_reads {s t : State} {evs : List HostEvent} (hpending : s.pending = evs)
    (hlegal : ∀ ev ∈ evs, ev.legal s.params = true) (hrun : Host.Core.run core evs.length s = .next t) (ret : List Word) :
    Host.Core.run core (evs.filter HostEvent.notRead).length (s.withLists (evs.filter HostEvent.notRead) ret) =
      .next (t.withLists [] ret) := by
  induction evs generalizing s with
  | nil => cases hrun; rfl
  | cons ev evs ih =>
    obtain ⟨u, hstep⟩ := exists_step_of_legal hpending (hlegal ev List.mem_cons_self)
    obtain ⟨hrest, hparams⟩ := step_pending_params hpending hstep
    have hkept := ih hrest (fun e he => hparams ▸ hlegal e (List.mem_cons_of_mem ev he))
      ((run_succ evs.length hstep).symm.trans hrun)
    cases hread : ev.notRead with
    | true =>
      rw [List.filter_cons_of_pos hread, List.length_cons]
      exact (run_succ _ (step_withLists hpending hread hstep _ ret)).trans hkept
    | false =>
      rw [List.filter_cons_of_neg (Bool.eq_false_iff.mp hread), ← withLists_of_read hpending hread hstep]
      exact hkept

/-- Settles O36: the run reaches its end, and without its reads it reaches the same end. -/
theorem readsCanBeDroppedFromARun : Obligations.ReadsCanBeDroppedFromARun := by
  unfold Obligations.ReadsCanBeDroppedFromARun
  intro s evs kept hpending hlegal hkept
  have hfilter : kept = evs.filter HostEvent.notRead :=
    hkept.trans (congrArg (List.filter · evs) (funext fun ev => by cases ev <;> rfl))
  obtain ⟨t, hrun, hdone, -⟩ := legalRunsReachTheirEnd s evs [] (by rw [hpending, List.append_nil]) hlegal
  refine ⟨t, t.withLists [] s.returned, hrun, ?_, congrArg (State.withLists t · []) hdone⟩
  rw [hfilter]
  exact run_without_reads hpending hlegal hrun s.returned

/-! # Invariants (10_state.md sections 2, 6 and 9, 43_frame.md section 1) -/

/-! ## STATUS and CMD (R25 to R27) -/

/-- Coherence is about CMD and STATUS alone. -/
theorem State.StatusCoherent.of_eq {s t : State} (h : s.StatusCoherent) (hcmd : t.cmd = s.cmd)
    (hstatus : t.status = s.status) : t.StatusCoherent := by
  have hfits : t.errFitsCmd = s.errFitsCmd := by unfold State.errFitsCmd; rw [hcmd, hstatus]
  exact ⟨by rw [hstatus, hcmd]; exact h.lastOp_eq, by rw [hstatus]; exact h.seen, hfits.trans h.err_fits⟩

theorem State.errFitsCmd_of_ok {s : State} {i : Instr} (h : decode s.cmd = .ok i) :
    s.errFitsCmd = mayEndWith i s.status.err := by
  simp only [State.errFitsCmd, h]

theorem State.errFitsCmd_of_error {s : State} {why : IllegalWord} (h : decode s.cmd = .error why) :
    s.errFitsCmd = (s.status.err = 4 || (s.cmd = 0 && s.status.err = 0)) := by
  simp only [State.errFitsCmd, h]

theorem exec_cmd {i : Instr} {s t : State} (h : exec i s = .next t) : t.cmd = s.cmd := by
  cases ends_of_exec h <;> rfl

/-- A command that ends leaves STATUS coherent with the word it was received as, whatever STATUS held before. -/
theorem statusCoherent_of_exec {s t : State} {w : Word} {i : Instr} (hdecode : decode w = .ok i)
    (h : exec i (s.receive w) = .next t) : t.StatusCoherent := by
  have hcmd : t.cmd = w := exec_cmd h
  have hstatus := exec_status h
  refine ⟨?_, ?_, ?_⟩
  · rw [hstatus, hcmd]; rfl
  · intro herr
    have herr' : t.status.err ≠ 0#4 := herr
    rw [hstatus]
    simp [herr']
  · rw [State.errFitsCmd_of_ok (hcmd ▸ hdecode), mayEndWith_of_exec h]

theorem statusCoherent_of_rejected (s : State) {w : Word} {why : IllegalWord} (hdecode : decode w = .error why) :
    ((s.receive w).raise .illegalCommand).StatusCoherent :=
  ⟨rfl, fun _ => rfl, State.errFitsCmd_of_error hdecode⟩

/-- CMD's reset value encodes no command. -/
theorem decode_zero : decode 0 = .error .unassignedOp := by decide

theorem statusCoherent_resetBlock (s : State) : s.resetBlock.StatusCoherent :=
  ⟨rfl, fun h => absurd rfl h, State.errFitsCmd_of_error (s := s.resetBlock) decode_zero⟩

/-- Settles O39, by the kinds of event a step can have served. -/
theorem stepsKeepStatusCoherent : Obligations.StepsKeepStatusCoherent := by
  unfold Obligations.StepsKeepStatusCoherent
  intro s t hs hstep
  obtain ⟨-, rfl⟩ | ⟨ev, rest, -, hserved⟩ := step_cases s t hstep
  · exact hs
  obtain ⟨addr, size, r, -, -, rfl⟩ | ⟨addr, size, n, v, -, -, rfl⟩ | ⟨w, i, -, hdecode, hexec⟩ |
    ⟨w, why, -, hdecode, rfl⟩ | ⟨-, rfl⟩ := hserved
  · exact hs.of_eq rfl rfl -- a read
  · exact hs.of_eq (State.setArg_cmd _ n v) (State.setArg_status _ n v) -- an operand write
  · exact statusCoherent_of_exec hdecode hexec
  · exact statusCoherent_of_rejected _ hdecode
  · exact statusCoherent_resetBlock _

/-! ## The result registers: FRAME and RES1 (R34, R35) -/

/-- A step leaves FRAME and RES1 as they are, or resets them, or runs a command from a state that holds them so. -/
theorem step_results_cases {s t : State} (h : step s = .next t) :
    (t.frames = s.frames ∧ t.res1 = s.res1) ∨ (t.frames = [0, 0] ∧ t.res1 = 0) ∨
    ∃ i u, exec i u = .next t ∧ u.frames = s.frames ∧ u.res1 = s.res1 := by
  obtain ⟨-, rfl⟩ | ⟨ev, rest, -, hserved⟩ := step_cases s t h
  · exact .inl ⟨rfl, rfl⟩
  obtain ⟨addr, size, r, -, -, rfl⟩ | ⟨addr, size, n, v, -, -, rfl⟩ | ⟨w, i, -, -, hexec⟩ | ⟨w, why, -, -, rfl⟩ | ⟨-, rfl⟩ :=
    hserved
  · exact .inl ⟨rfl, rfl⟩ -- a read
  · exact .inl (by simp [State.frames]) -- an operand write
  · exact .inr (.inr ⟨i, _, hexec, rfl, rfl⟩) -- a legal command
  · exact .inl ⟨rfl, rfl⟩ -- an illegal word
  · exact .inr (.inl ⟨rfl, rfl⟩) -- a reset

/-- A command leaves FRAME, or BUILD_RDREQ placed a frame there (R35). -/
theorem exec_frames_cases {i : Instr} {s t : State} (h : exec i s = .next t) :
    t.frames = s.frames ∨
    ∃ a f st c fr, buildReadRequest a f st c = .ok fr ∧ t = (s.setRequest fr).complete := by
  cases ends_of_exec h with
  | buildRdreq a f st c fr hfr => exact .inr ⟨a, f, st, c, fr, hfr, rfl⟩
  | _ => exact .inl rfl

/-- A command leaves RES1, or DEC_SHORT placed a 4-bit value there (R34). -/
theorem exec_res1_cases {i : Instr} {s t : State} (h : exec i s = .next t) :
    t.res1 = s.res1 ∨ ∃ d : BitVec 4, t.res1 = d.setWidth 32 := by
  cases ends_of_exec h with
  | decShort bo sg dec cnt v d => exact .inr ⟨d, rfl⟩
  | _ => exact .inl rfl

/-! ## FRAME (R164) -/

/-- The check is about the FRAME registers alone. -/
theorem State.FrameChecked.of_frames_eq {s t : State} (h : s.FrameChecked) (hframes : t.frames = s.frames) :
    t.FrameChecked := by
  have hbyte : t.frameByte = s.frameByte := by
    funext i
    rw [State.frameByte, State.frameByte, hframes]
  obtain ⟨h0, h1⟩ : t.frame0 = s.frame0 ∧ t.frame1 = s.frame1 := by simpa [State.frames] using hframes
  unfold State.FrameChecked
  rw [h0, h1, hbyte]
  exact h

theorem frameChecked_of_frames_zero {t : State} (h : t.frames = [0, 0]) : t.FrameChecked :=
  .inl (by simpa [State.frames] using h)

/-- A built frame, placed, ends in the checksum of its first six bytes. -/
theorem frameChecked_of_built (s : State) {a f st c : ℤ} {fr : List Byte} (h : buildReadRequest a f st c = .ok fr) :
    (s.setRequest fr).complete.FrameChecked := by
  obtain ⟨b0, b1, b2, b3, b4, b5, rfl⟩ := buildReadRequest_ok a f st c fr h
  have hframe := frameByte_setRequest s b0 b1 b2 b3 b4 b5 ((checksum [b0, b1, b2, b3, b4, b5]).extractLsb' 0 8)
    ((checksum [b0, b1, b2, b3, b4, b5]).extractLsb' 8 8)
  have hbody := congrArg (List.take 6) hframe
  have hsum := congrArg (List.drop 6) hframe
  exact .inr (hsum.trans (congrArg (fun bs => crcBytes (checksum bs)) hbody).symm)

/-- Settles O40: FRAME is left, reset, or holds a frame that was just built. -/
theorem stepsKeepFramesChecked : Obligations.StepsKeepFramesChecked := by
  unfold Obligations.StepsKeepFramesChecked
  intro s t hs hstep
  obtain ⟨hframes, -⟩ | ⟨hzero, -⟩ | ⟨i, u, hexec, hframes, -⟩ := step_results_cases hstep
  · exact hs.of_frames_eq hframes
  · exact frameChecked_of_frames_zero hzero
  · obtain hkept | ⟨a, f, st, c, fr, hfr, rfl⟩ := exec_frames_cases hexec
    · exact hs.of_frames_eq (hkept.trans hframes)
    · exact frameChecked_of_built u hfr

/-! ## RES1 (R34, R130) -/

/-- Settles O41: RES1 is left, reset, or holds a zero-extended 4-bit value. -/
theorem stepsKeepRes1ADecimalsCount : Obligations.StepsKeepRes1ADecimalsCount := by
  unfold Obligations.StepsKeepRes1ADecimalsCount State.Res1IsDecimals
  intro s t hs hstep
  obtain ⟨-, hkept⟩ | ⟨-, hzero⟩ | ⟨i, u, hexec, -, hkept⟩ := step_results_cases hstep
  · rwa [hkept]
  · rw [hzero]; decide
  · obtain hleft | ⟨d, hd⟩ := exec_res1_cases hexec
    · rwa [hleft, hkept]
    · rw [hd, BitVec.toNat_setWidth_of_le (by decide)]
      exact d.isLt

/-! ## The state after reset (R42) -/

/-- Settles O38: STATUS agrees with a CMD of 0, and FRAME and RES1 are 0. -/
theorem resetStateMeetsTheInvariant : Obligations.ResetStateMeetsTheInvariant := by
  unfold Obligations.ResetStateMeetsTheInvariant
  exact ⟨statusCoherent_resetBlock State.reset, frameChecked_of_frames_zero rfl, Nat.zero_lt_succ 15⟩

end Sys2Proof.Machine
